-- ==== Sys2Proof/Word.lean ====
section
/-! DEFINITION. The word types of FlightRadar CORE (00_scope.md rule R21). Bit vectors stand for what the spec treats as
bits: operands, registers, frame fields, binary64 patterns. Indices and counts are `Nat`, exact arithmetic is `Int`. -/

namespace Sys2Proof

/-- One byte. -/
abbrev Byte := BitVec 8

/-- A timestamp word in nanoseconds; legal values are below 2^63 (R21). -/
abbrev Ts := BitVec 64

/-- A 24-bit aircraft address (R21). -/
abbrev Icao := BitVec 24

/-- A binary64 value, as its IEEE 754 bit pattern (R21). -/
abbrev F64 := BitVec 64

/-- A conditioned sample: 12-bit two's complement (R126). -/
abbrev Sample := BitVec 12

/-- The 56-bit message field of a frame (R21). -/
abbrev Me := BitVec 56

end Sys2Proof
end

