-- ==== Sys2Proof/Config.lean ====
section
/-! DEFINITION. The implementation parameters of 00_scope.md rule R20 and the options that `CFG_OPTIONS` reports (10_state.md
rule R115). The two OPEN parameters (`NL_EQUATOR`, `NL_87`; D26) are opaque constants: nothing can be proved about their
values. -/

namespace Sys2Proof.Config

/-- `GEN`: the generator of the CRC, its x^24 bit implicit. -/
def gen : BitVec 24 := 0xFFF409#24
/-- `FRAME_BYTES` -/
def frameBytes : Nat := 14
/-- `DF_ES`: the one downlink format the block keeps. -/
def dfEs : Nat := 17
/-- `WINDOW`: power samples in the window. -/
def window : Nat := 1200
/-- `HIGH_OFFS`: window offsets of the preamble's pulses. -/
def highOffs : List Nat := [0, 10, 35, 45]
/-- `LOW_OFFS`: window offsets of the preamble's low points (six of them, C1). -/
def lowOffs : List Nat := [5, 15, 20, 25, 30, 40]
/-- `BIT_PITCH`: power samples per message bit (C2). -/
def bitPitch : Nat := 10
/-- `BIT_BASE`: window offset of message bit 0 (D12). -/
def bitBase : Nat := 80
/-- `HALF_BIT`: offset of the second comparison point (D12). -/
def halfBit : Nat := 5
/-- `SKIP`: power samples skipped after a frame (D11). -/
def skip : Nat := 1200
/-- `NS_PER_SAMPLE` (D5). -/
def nsPerSample : Nat := 100
/-- `BIAS` of a raw sample word. -/
def bias : Nat := 2048
/-- `SAMPLE_MAX`: the largest legal raw sample word (D8). -/
def sampleMax : Nat := 4095
/-- `PAIR_WINDOW_NS`: 10 seconds. -/
def pairWindowNs : Nat := 10000000000
/-- `STALE_NS`: 60 seconds. -/
def staleNs : Nat := 60000000000
/-- `MAX_SEQ`: bytes in a byte-sequence operand (D48). -/
def maxSeq : Nat := 255
/-- `RANGE_MAX`: bytes in one range read. -/
def rangeMax : Nat := 8
/-- `KNOT_MPS` = 1852/3600 = 463/900 metres per second (D20): the numerator. -/
def knotNum : Nat := 463
/-- `KNOT_MPS`: the denominator. -/
def knotDen : Nat := 900
/-- `FOOT_M` = 0.3048 = 381/1250 metres (D20): the numerator. -/
def footNum : Nat := 381
/-- `FOOT_M`: the denominator. -/
def footDen : Nat := 1250
/-- `GS_FACTOR_ST1` -/
def gsFactorSt1 : Nat := 1
/-- `AS_FACTOR_ST3` -/
def asFactorSt3 : Nat := 1

/-- `SKIP_PREV`: how the score before a moved left edge is found (D10). -/
inductive SkipPrev
  | recompute
  | zero
  deriving DecidableEq, Repr, Inhabited

/-- `CALLSIGN_TRIM`: which spaces of a call sign are dropped (D17). -/
inductive Trim
  | leading
  | trailing
  deriving DecidableEq, Repr, Inhabited

/-- `CAT_CA_SRC`: where the category's low 3 bits come from (D15). -/
inductive CatCaSrc
  | me
  | cap
  deriving DecidableEq, Repr, Inhabited

/-- `NL_EQUATOR`: the zone count at latitude 0 or ±180° (OPEN, D26). -/
inductive NlEquator
  | n60
  | n59
  deriving DecidableEq, Repr, Inhabited

/-- `NL_87`: the zone count at latitude ±87° or ±93° (OPEN, D26). -/
inductive Nl87
  | n2
  | n1
  deriving DecidableEq, Repr, Inhabited

/-- `ROUND_TIE`: ties of `round` (D25). -/
inductive RoundTie
  | halfEven
  | halfUp
  deriving DecidableEq, Repr, Inhabited

/-- The parameters that `CFG_OPTIONS` reports (R115, register 12), one field each. The factors have the register's 3 bits. -/
structure Options where
  skipPrev    : SkipPrev
  trim        : Trim
  catCaSrc    : CatCaSrc
  gsFactorSt2 : BitVec 3
  asFactorSt4 : BitVec 3
  nlEquator   : NlEquator
  nl87        : Nl87
  roundTie    : RoundTie
  deriving DecidableEq, Repr

/-- OPEN (D26, log 8): no value is known. -/
opaque nlEquator : NlEquator

/-- OPEN (D26, log 8): no value is known. -/
opaque nl87 : Nl87

/-- The defaults of R20 beside a choice of the two OPEN parameters. -/
def optionsWith (e : NlEquator) (n : Nl87) : Options where
  skipPrev := .recompute
  trim := .leading
  catCaSrc := .me
  gsFactorSt2 := 1#3
  asFactorSt4 := 2#3
  nlEquator := e
  nl87 := n
  roundTie := .halfEven

/-- The options of this machine: the defaults of R20 and the OPEN parameters left open. -/
def options : Options := optionsWith nlEquator nl87

end Sys2Proof.Config
end

