-- ==== Sys2Proof/Syntax.lean ====
section
/-! DEFINITION. The commands of FlightRadar CORE: one constructor of `Instr` for each row of 30_encoding.md rule R302, its
operands at the widths of that table. A `seq` and a frame are byte lists, whose lengths `WellFormed` checks. -/

namespace Sys2Proof

/-- The message operand of `TRK.UPDATE` as it stands in the command, before any of its fields is checked (R304). The length
byte of an `ident` is the length of `callSign`. `badTag` is an operand whose tag byte is outside 1..3. -/
inductive MsgOperand
  | ident (ts : Ts) (icao : Icao) (category : BitVec 8) (callSign : List Byte)
  | position (ts : Ts) (icao : Icao) (altitudeM : F64) (parity : BitVec 8) (x y : BitVec 17)
  | velocity (ts : Ts) (icao : Icao) (speedMps trackRad : F64)
  | badTag (tag : Byte)
  deriving DecidableEq, Repr

/-- The 37 commands (R302). -/
inductive Instr
  | bfExtract (value : BitVec 64) (start size : BitVec 8)
  | bfTestbit (value : BitVec 64) (index : BitVec 8)
  | bsRange (seq : List Byte) (lo hi : BitVec 8)
  | crcCompute (seq : List Byte)
  | crcCheck (seq : List Byte)
  | crcTable (index : BitVec 8)
  | scCondition (lo hi : BitVec 8)
  | pePower (s0 s1 s2 s3 s4 s5 s6 s7 : BitVec 16)
  | winGet (i : BitVec 16)
  | winAdvance
  | winAdvanceby (n : BitVec 32)
  | winIsfull
  | winPosition
  | demSize (byte0 : BitVec 8)
  | demNext
  | frmInject (ts : Ts) (frame : List Byte)
  | frmTs
  | frmDf
  | frmCa
  | frmIcao
  | frmMe
  | frmTc
  | frmBytes
  | msgDecode
  | altDecode (alt12 : BitVec 16)
  | grayDecode (v : BitVec 16) (n : BitVec 8)
  | csChar (code : BitVec 8)
  | cprMerge (x0 y0 x1 y1 : BitVec 17) (recent : BitVec 1)
  | trkUpdate (msg : MsgOperand)
  | trkPurge (now : Ts)
  | trkRead (icao : Icao)
  | trkLast
  | evPop
  | pipeStep
  | blkReset
  | blkStatus
  | blkConfig (n : BitVec 8)
  deriving DecidableEq, Repr

end Sys2Proof
end

