-- ==== Sys2Proof/WellFormed.lean ====
section
/-! DEFINITION. Which terms of `Instr` are commands of 30_encoding.md: the lengths that the types leave open (R300: a `seq`
has 0 to 255 bytes, a frame 14) and the tags that stand for a bad message operand (R304). -/

namespace Sys2Proof

/-- R304: the length byte of a call sign counts up to 255, and a bad tag is none of the three tags. -/
def MsgOperand.wellFormed : MsgOperand → Bool
  | .ident _ _ _ callSign => decide (callSign.length ≤ Config.maxSeq)
  | .position _ _ _ _ _ _ => true
  | .velocity _ _ _ _ => true
  | .badTag tag => decide (tag ≠ 1#8 ∧ tag ≠ 2#8 ∧ tag ≠ 3#8)

/-- R300: a byte-sequence operand fits its length byte. -/
def seqWellFormed (seq : List Byte) : Bool := decide (seq.length ≤ Config.maxSeq)

/-- A well-formed command: one that has an encoding. -/
def Instr.wellFormed : Instr → Bool
  | .bfExtract _ _ _ => true
  | .bfTestbit _ _ => true
  | .bsRange seq _ _ => seqWellFormed seq
  | .crcCompute seq => seqWellFormed seq
  | .crcCheck seq => seqWellFormed seq
  | .crcTable _ => true
  | .scCondition _ _ => true
  | .pePower _ _ _ _ _ _ _ _ => true
  | .winGet _ => true
  | .winAdvance => true
  | .winAdvanceby _ => true
  | .winIsfull => true
  | .winPosition => true
  | .demSize _ => true
  | .demNext => true
  | .frmInject _ frame => decide (frame.length = Config.frameBytes)
  | .frmTs => true
  | .frmDf => true
  | .frmCa => true
  | .frmIcao => true
  | .frmMe => true
  | .frmTc => true
  | .frmBytes => true
  | .msgDecode => true
  | .altDecode _ => true
  | .grayDecode _ _ => true
  | .csChar _ => true
  | .cprMerge _ _ _ _ _ => true
  | .trkUpdate msg => msg.wellFormed
  | .trkPurge _ => true
  | .trkRead _ => true
  | .trkLast => true
  | .evPop => true
  | .pipeStep => true
  | .blkReset => true
  | .blkStatus => true
  | .blkConfig _ => true

end Sys2Proof
end

