-- ==== Sys2Proof/Decode.lean ====
section
/-! DEFINITION. The command decoder (30_encoding.md rules R300 to R304), total on byte lists and rejecting by name, and after it
the encoder. A command word is a bit string, most significant bit first; here it is a byte list, padded with zero bits to a
whole byte. What stands after the command's last operand bit is not read (log 5). -/

namespace Sys2Proof

/-- Why a byte list is no command word. -/
inductive DecodeError
  /-- no opcode byte -/
  | empty
  /-- an opcode that is not in the table of R302 -/
  | illegalOpcode (op : Byte)
  /-- an opcode of the table, with fewer bits after it than its operands have -/
  | truncated (op : Byte)
  deriving DecidableEq, Repr

/-! ## Big-endian fields (R300, R211) -/

/-- The big-endian integer of a byte list. -/
def beNat (bs : List Byte) : Nat := bs.foldl (fun acc b => acc * 256 + b.toNat) 0

/-- The low `n` bytes of `v`, most significant first. -/
def toBE : Nat → Nat → List Byte
  | 0, _ => []
  | n + 1, v => toBE n (v / 256) ++ [BitVec.ofNat 8 v]

/-- The first `n` bytes as an integer, and what follows them. -/
def takeBE (n : Nat) (bs : List Byte) : Option (Nat × List Byte) :=
  if n ≤ bs.length then some (beNat (bs.take n), bs.drop n) else none

/-- A field of `w` bits, `w` a multiple of 8. -/
def takeField (w : Nat) (bs : List Byte) : Option (BitVec w × List Byte) :=
  (takeBE (w / 8) bs).map fun p => (BitVec.ofNat w p.1, p.2)

/-- The first byte's value of bytes, and what follows them: the form of a `seq` (R300) and of a call sign (R304). -/
def takeSeq : List Byte → Option (List Byte × List Byte)
  | [] => none
  | n :: r => if n.toNat ≤ r.length then some (r.take n.toNat, r.drop n.toNat) else none

/-! ## The decoder -/

/-- The message operand of `TRK.UPDATE` (R304). After a tag outside 1..3 nothing is read (log 20). -/
def decodeMsg : List Byte → Option MsgOperand
  | [] => none
  | tag :: r =>
    if tag = 1#8 then do
      let (ts, r) ← takeField 64 r
      let (icao, r) ← takeField 24 r
      let (category, r) ← takeField 8 r
      let (callSign, _) ← takeSeq r
      some (.ident ts icao category callSign)
    else if tag = 2#8 then do
      let (ts, r) ← takeField 64 r
      let (icao, r) ← takeField 24 r
      let (altitudeM, r) ← takeField 64 r
      let (parity, r) ← takeField 8 r
      let (v, _) ← takeBE 5 r
      some (.position ts icao altitudeM parity (BitVec.ofNat 17 (v >>> 23)) (BitVec.ofNat 17 (v >>> 6)))
    else if tag = 3#8 then do
      let (ts, r) ← takeField 64 r
      let (icao, r) ← takeField 24 r
      let (speedMps, r) ← takeField 64 r
      let (trackRad, _) ← takeField 64 r
      some (.velocity ts icao speedMps trackRad)
    else some (.badTag tag)

/-- The reader of an opcode's operands, or `none` for an opcode that is not in the table of R302. -/
def operandsOf (op : Byte) : Option (List Byte → Option Instr) :=
  match op.toNat with
  | 0x01 => some fun r => do
      let (value, r) ← takeField 64 r
      let (start, r) ← takeField 8 r
      let (size, _) ← takeField 8 r
      some (.bfExtract value start size)
  | 0x02 => some fun r => do
      let (value, r) ← takeField 64 r
      let (index, _) ← takeField 8 r
      some (.bfTestbit value index)
  | 0x03 => some fun r => do
      let (seq, r) ← takeSeq r
      let (lo, r) ← takeField 8 r
      let (hi, _) ← takeField 8 r
      some (.bsRange seq lo hi)
  | 0x10 => some fun r => (takeSeq r).map fun p => .crcCompute p.1
  | 0x11 => some fun r => (takeSeq r).map fun p => .crcCheck p.1
  | 0x12 => some fun r => (takeField 8 r).map fun p => .crcTable p.1
  | 0x20 => some fun r => do
      let (lo, r) ← takeField 8 r
      let (hi, _) ← takeField 8 r
      some (.scCondition lo hi)
  | 0x21 => some fun r => do
      let (s0, r) ← takeField 16 r
      let (s1, r) ← takeField 16 r
      let (s2, r) ← takeField 16 r
      let (s3, r) ← takeField 16 r
      let (s4, r) ← takeField 16 r
      let (s5, r) ← takeField 16 r
      let (s6, r) ← takeField 16 r
      let (s7, _) ← takeField 16 r
      some (.pePower s0 s1 s2 s3 s4 s5 s6 s7)
  | 0x30 => some fun r => (takeField 16 r).map fun p => .winGet p.1
  | 0x31 => some fun _ => some .winAdvance
  | 0x32 => some fun r => (takeField 32 r).map fun p => .winAdvanceby p.1
  | 0x33 => some fun _ => some .winIsfull
  | 0x34 => some fun _ => some .winPosition
  | 0x40 => some fun r => (takeField 8 r).map fun p => .demSize p.1
  | 0x41 => some fun _ => some .demNext
  | 0x50 => some fun r => do
      let (ts, r) ← takeField 64 r
      if Config.frameBytes ≤ r.length then some (.frmInject ts (r.take Config.frameBytes)) else none
  | 0x51 => some fun _ => some .frmTs
  | 0x52 => some fun _ => some .frmDf
  | 0x53 => some fun _ => some .frmCa
  | 0x54 => some fun _ => some .frmIcao
  | 0x55 => some fun _ => some .frmMe
  | 0x56 => some fun _ => some .frmTc
  | 0x57 => some fun _ => some .frmBytes
  | 0x60 => some fun _ => some .msgDecode
  | 0x61 => some fun r => (takeField 16 r).map fun p => .altDecode p.1
  | 0x62 => some fun r => do
      let (v, r) ← takeField 16 r
      let (n, _) ← takeField 8 r
      some (.grayDecode v n)
  | 0x63 => some fun r => (takeField 8 r).map fun p => .csChar p.1
  | 0x70 => some fun r => (takeBE 9 r).map fun p =>
      .cprMerge (BitVec.ofNat 17 (p.1 >>> 55)) (BitVec.ofNat 17 (p.1 >>> 38)) (BitVec.ofNat 17 (p.1 >>> 21))
        (BitVec.ofNat 17 (p.1 >>> 4)) (BitVec.ofNat 1 (p.1 >>> 3))
  | 0x80 => some fun r => (decodeMsg r).map .trkUpdate
  | 0x81 => some fun r => (takeField 64 r).map fun p => .trkPurge p.1
  | 0x82 => some fun r => (takeField 24 r).map fun p => .trkRead p.1
  | 0x83 => some fun _ => some .trkLast
  | 0x84 => some fun _ => some .evPop
  | 0x90 => some fun _ => some .pipeStep
  | 0xF0 => some fun _ => some .blkReset
  | 0xF1 => some fun _ => some .blkStatus
  | 0xF2 => some fun r => (takeField 8 r).map fun p => .blkConfig p.1
  | _ => none

/-- R303: the opcode first; an opcode outside the table is rejected before any operand is read. -/
def decode : List Byte → Except DecodeError Instr
  | [] => .error .empty
  | op :: r =>
    match operandsOf op with
    | none => .error (.illegalOpcode op)
    | some operands =>
      match operands r with
      | none => .error (.truncated op)
      | some i => .ok i

/-! ## The encoder -/

/-- The opcode column of R302. -/
def opcode : Instr → Byte
  | .bfExtract _ _ _ => 0x01#8
  | .bfTestbit _ _ => 0x02#8
  | .bsRange _ _ _ => 0x03#8
  | .crcCompute _ => 0x10#8
  | .crcCheck _ => 0x11#8
  | .crcTable _ => 0x12#8
  | .scCondition _ _ => 0x20#8
  | .pePower _ _ _ _ _ _ _ _ => 0x21#8
  | .winGet _ => 0x30#8
  | .winAdvance => 0x31#8
  | .winAdvanceby _ => 0x32#8
  | .winIsfull => 0x33#8
  | .winPosition => 0x34#8
  | .demSize _ => 0x40#8
  | .demNext => 0x41#8
  | .frmInject _ _ => 0x50#8
  | .frmTs => 0x51#8
  | .frmDf => 0x52#8
  | .frmCa => 0x53#8
  | .frmIcao => 0x54#8
  | .frmMe => 0x55#8
  | .frmTc => 0x56#8
  | .frmBytes => 0x57#8
  | .msgDecode => 0x60#8
  | .altDecode _ => 0x61#8
  | .grayDecode _ _ => 0x62#8
  | .csChar _ => 0x63#8
  | .cprMerge _ _ _ _ _ => 0x70#8
  | .trkUpdate _ => 0x80#8
  | .trkPurge _ => 0x81#8
  | .trkRead _ => 0x82#8
  | .trkLast => 0x83#8
  | .evPop => 0x84#8
  | .pipeStep => 0x90#8
  | .blkReset => 0xF0#8
  | .blkStatus => 0xF1#8
  | .blkConfig _ => 0xF2#8

/-- A `seq`: its length byte, then its bytes (R300). -/
def encodeSeq (seq : List Byte) : List Byte := BitVec.ofNat 8 seq.length :: seq

/-- R304, with the 34 bits of `x` and `y` padded to five bytes. -/
def encodeMsg : MsgOperand → List Byte
  | .ident ts icao category callSign =>
    1#8 :: (toBE 8 ts.toNat ++ toBE 3 icao.toNat ++ toBE 1 category.toNat ++ encodeSeq callSign)
  | .position ts icao altitudeM parity x y =>
    2#8 :: (toBE 8 ts.toNat ++ toBE 3 icao.toNat ++ toBE 8 altitudeM.toNat ++ toBE 1 parity.toNat ++
      toBE 5 (x.toNat <<< 23 ||| y.toNat <<< 6))
  | .velocity ts icao speedMps trackRad =>
    3#8 :: (toBE 8 ts.toNat ++ toBE 3 icao.toNat ++ toBE 8 speedMps.toNat ++ toBE 8 trackRad.toNat)
  | .badTag tag => [tag]

/-- The operand fields of R302, packed in the table's order. -/
def encodeOperands : Instr → List Byte
  | .bfExtract value start size => toBE 8 value.toNat ++ toBE 1 start.toNat ++ toBE 1 size.toNat
  | .bfTestbit value index => toBE 8 value.toNat ++ toBE 1 index.toNat
  | .bsRange seq lo hi => encodeSeq seq ++ toBE 1 lo.toNat ++ toBE 1 hi.toNat
  | .crcCompute seq => encodeSeq seq
  | .crcCheck seq => encodeSeq seq
  | .crcTable index => toBE 1 index.toNat
  | .scCondition lo hi => toBE 1 lo.toNat ++ toBE 1 hi.toNat
  | .pePower s0 s1 s2 s3 s4 s5 s6 s7 =>
    toBE 2 s0.toNat ++ toBE 2 s1.toNat ++ toBE 2 s2.toNat ++ toBE 2 s3.toNat ++ toBE 2 s4.toNat ++ toBE 2 s5.toNat ++
      toBE 2 s6.toNat ++ toBE 2 s7.toNat
  | .winGet i => toBE 2 i.toNat
  | .winAdvance => []
  | .winAdvanceby n => toBE 4 n.toNat
  | .winIsfull => []
  | .winPosition => []
  | .demSize byte0 => toBE 1 byte0.toNat
  | .demNext => []
  | .frmInject ts frame => toBE 8 ts.toNat ++ frame
  | .frmTs => []
  | .frmDf => []
  | .frmCa => []
  | .frmIcao => []
  | .frmMe => []
  | .frmTc => []
  | .frmBytes => []
  | .msgDecode => []
  | .altDecode alt12 => toBE 2 alt12.toNat
  | .grayDecode v n => toBE 2 v.toNat ++ toBE 1 n.toNat
  | .csChar code => toBE 1 code.toNat
  | .cprMerge x0 y0 x1 y1 recent =>
    toBE 9 (x0.toNat <<< 55 ||| y0.toNat <<< 38 ||| x1.toNat <<< 21 ||| y1.toNat <<< 4 ||| recent.toNat <<< 3)
  | .trkUpdate msg => encodeMsg msg
  | .trkPurge now => toBE 8 now.toNat
  | .trkRead icao => toBE 3 icao.toNat
  | .trkLast => []
  | .evPop => []
  | .pipeStep => []
  | .blkReset => []
  | .blkStatus => []
  | .blkConfig n => toBE 1 n.toNat

/-- The command word of a well-formed command, as bytes. -/
def encode (i : Instr) : List Byte := opcode i :: encodeOperands i

/-! ## The table's numbering of bits -/

/-- The bytes of the longest command: a `TRK.UPDATE` of an `ident` operand whose length byte is 255. -/
def longestCommand : Nat := 270

/-- The bytes of a command whose first `nbits` bits are `w`, byte 0 in the low bits, and whose further bits are 0. -/
def tableWordBytes (nbits w : Nat) : List Byte :=
  (List.range longestCommand).map fun k => BitVec.ofNat 8 ((w % 2 ^ nbits) >>> (8 * k))

/-- The instruction the decoder reads from such a word. -/
def decodeTableWord (nbits w : Nat) : Option Instr :=
  match decode (tableWordBytes nbits w) with
  | .ok i => some i
  | .error _ => none

end Sys2Proof
end

