-- ==== Sys2Proof/Machine/State.lean ====
section
/-! DEFINITION. The state of FlightRadar CORE as plain data (10_state.md), the values its commands return, and the state after
reset. INVENTORY.md lists every field with its rule. -/

namespace Sys2Proof.Machine

/-! ## Fault causes and outcomes (60_exceptions.md rules R906 and R922) -/

/-- The fault causes of R906 (`Cause.code` gives their codes). -/
inductive Cause
  | illegalCommand
  | badOperand
  | bfSize
  | bfRange
  | bfIndex
  | bsRange
  | bsWidth
  | sampleRange
  | winIndex
  | winPastEnd
  | tsOverflow
  | tsNegative
  | badField
  | ioError
  | noFrame
  deriving DecidableEq, Repr

/-- The outcome codes of R922 (`RespOutcome.code` gives their codes). -/
inductive RespOutcome
  | ok
  | fin
  | dropDf
  | dropCrc
  | discTc
  | discSt
  | discCallsign
  | discVelNodata
  | discHeading
  | discAirspeed
  | discAlt
  | indetZone
  | indetLat
  | timeout
  deriving DecidableEq, Repr

/-! ## Frames, messages and the tracker's records -/

/-- A frame: its timestamp and its 14 bytes, byte 0 first (R140, R650). -/
structure Frame where
  ts    : Ts
  bytes : List Byte
  deriving DecidableEq, Repr

/-- CPR parity (R40): the format bit, 0 even, 1 odd. -/
inductive Parity
  | even
  | odd
  deriving DecidableEq, Repr

/-- A `Position` message (R145); `x` and `y` are the numerators over 2^17 of the local longitude and latitude. -/
structure PositionMsg where
  ts        : Ts
  icao      : Icao
  altitudeM : F64
  parity    : Parity
  x         : BitVec 17
  y         : BitVec 17
  deriving DecidableEq, Repr

/-- A typed message (R145): a closed set of three variants. -/
inductive Message
  | ident (ts : Ts) (icao : Icao) (category : BitVec 8) (callSign : List Byte)
  | position (p : PositionMsg)
  | velocity (ts : Ts) (icao : Icao) (speedMps trackRad : F64)
  deriving DecidableEq, Repr

/-- A geodetic position in T32 units, two's complement (R800, R813). -/
structure GeoPos where
  lonT32 : BitVec 32
  latT32 : BitVec 32
  deriving DecidableEq, Repr

/-- `AircraftState` (R151). -/
structure AircraftState where
  lastSeenNs : Ts
  category   : Option (BitVec 8)
  callSign   : Option (List Byte)
  position   : Option GeoPos
  altitudeM  : F64
  speedMps   : Option F64
  trackRad   : Option F64
  slotEven   : Option PositionMsg
  slotOdd    : Option PositionMsg
  deriving DecidableEq, Repr

/-- The events of `EV` (R155, R880). -/
inductive Event
  | add (icao : Icao) (snapshot : AircraftState)
  | update (icao : Icao) (snapshot : AircraftState)
  | remove (icao : Icao)
  deriving DecidableEq, Repr

/-! ## Responses (R104, R905, R907) -/

/-- The `value` part of a response; `bits` is a result of the width the command table names (R302). -/
inductive Value
  | empty
  | bits (w : Nat) (v : BitVec w)
  | bytes (bs : List Byte)
  | frame (f : Frame)
  | message (m : Message)
  | geo (p : GeoPos)
  | aircraft (a : Option AircraftState)
  | time (t : Option Ts)
  | event (e : Option Event)
  | status (fault : BitVec 16) (info : BitVec 64)
  deriving DecidableEq, Repr

/-- What a command hands back to the host: a normal response, a fault response or `{refused}`. -/
inductive Response
  | normal (outcome : RespOutcome) (value : Value)
  | fault (cause : Cause) (info : BitVec 64)
  | refused
  deriving DecidableEq, Repr

/-! ## Demodulator state and host actions -/

/-- `D.prev` (R135): a 32-bit score, or the marker `stale`. -/
inductive Prev
  | stale
  | score (v : BitVec 32)
  deriving DecidableEq, Repr

/-- `D.state` (R136). -/
inductive DState
  | scanning
  | done
  deriving DecidableEq, Repr

/-- What the host does (60_exceptions.md rule R940). `issue` hands over one command word. -/
inductive HostAct
  | issue (command : List Byte)
  | deliver (bs : List Byte)
  | eos
  | ioError
  deriving DecidableEq, Repr

/-! ## How a step can stop -/

/-- Why the machine stops. Both are breaches of the host's side of the interface, for which the spec gives no result. -/
inductive Fault
  /-- Raised by the step when the host issues a command while another waits: R253 and R942 give overlapped commands "no
  defined result" (log 4). Safe: the model stops. -/
  | commandOverlap
  /-- Raised by the step for a command word that ends before its format does (R300; log 5). Safe: the model stops. -/
  | truncatedCommand
  deriving DecidableEq, Repr

/-- Why an instruction is refused. -/
inductive Refusal
  /-- Raised by an arm of `exec` for an instruction that has no meaning yet. Safe. -/
  | notModelled (mnemonic : String)
  /-- Raised by the step and by every command in a state whose `CAUSE` is 16 to 255: "A model refuses any state with a reserved
  `CAUSE`" (R906, I5). Safe: no rule raises such a cause. -/
  | reservedCause
  deriving DecidableEq, Repr

/-! ## The state -/

/-- Everything the spec gives the block (R165), the command that waits for bytes (R9), and the model's two interface fields:
`inbox`, what the host does next (log 1), and `resp`, the last command's response (log 2). -/
structure State where
  faulted   : Bool
  eos       : Bool
  cause     : BitVec 8
  faultInfo : BitVec 64
  cfg       : Config.Options
  src       : List Byte
  taken     : Nat
  wpos      : BitVec 64
  dprev     : Prev
  dstate    : DState
  frame     : Option Frame
  table     : List (Icao × AircraftState)
  lastNs    : Option Ts
  ev        : List Event
  pending   : Option Instr
  inbox     : List HostAct
  resp      : Option Response
  deriving DecidableEq, Repr

/-- R165, R950: the state after reset or power-up. -/
def State.reset : State where
  faulted := false
  eos := false
  cause := 0#8
  faultInfo := 0#64
  cfg := Config.options
  src := []
  taken := 0
  wpos := 0#64
  dprev := .score 0#32
  dstate := .scanning
  frame := none
  table := []
  lastNs := none
  ev := []
  pending := none
  inbox := []
  resp := none

/-! ## Results of the machine's internal operations -/

/-- What `need(k)` answers (43_window.md rule R557): wait for the host, `Absent`, a raw word above 4095 at a sample index
(R502), or the power sample. -/
inductive Need
  | wait
  | absent
  | bad (n u : Nat)
  | value (v : Nat)
  deriving DecidableEq, Repr

/-- How a part of a command that reads the stream ends: with a result, with a fault, or at a wait. -/
inductive Run (α : Type)
  | done (a : α)
  | fault (c : Cause) (info : BitVec 64)
  | wait
  deriving DecidableEq, Repr

/-- What the demodulator finds at one scan position (R610): a valid frame, or nothing. `taken` is the number of power
samples computed by then, `cur` the position's score. -/
inductive Exam
  | found (bytes : List Byte) (taken : Nat)
  | rejected (cur : Nat) (taken : Nat)
  deriving DecidableEq, Repr

/-- How a scan ends (R610): with a frame at a position, or at the end of the input. -/
inductive Scan
  | frame (p : Nat) (bytes : List Byte) (taken : Nat)
  | ended (p : Nat) (prev : Prev) (taken : Nat)
  deriving DecidableEq, Repr

/-- What a decoder of a frame's message answers: a message, or the outcome of a discard (R921). -/
inductive Decoded
  | message (m : Message)
  | discard (reason : RespOutcome)
  deriving DecidableEq, Repr

/-- What the CPR merger answers (R800): a position, or the outcome of an indeterminate merge. -/
inductive Merged
  | position (p : GeoPos)
  | indeterminate (reason : RespOutcome)
  deriving DecidableEq, Repr

/-- What the step does with the host's next action: settle in a state, run a command, or stop. -/
inductive Fetched
  | settle (s : State)
  | run (i : Instr) (s : State)
  | stop (r : Fault)
  | refuse (r : Refusal)
  deriving DecidableEq, Repr

end Sys2Proof.Machine
end

