-- ==== Sys2Proof/Machine/Flags.lean ====
section
/-! DEFINITION. The block has no condition codes (R102). What stands in their place: the `FAULT` status register (R110), the
fault cause codes (R906), the outcome codes (R922) and the word of `CFG_OPTIONS` (R115). -/

namespace Sys2Proof.Machine

/-- R906: the 8-bit cause codes; 0 means no fault, 16 to 255 are reserved. -/
def Cause.code : Cause → BitVec 8
  | .illegalCommand => 1#8
  | .badOperand => 2#8
  | .bfSize => 3#8
  | .bfRange => 4#8
  | .bfIndex => 5#8
  | .bsRange => 6#8
  | .bsWidth => 7#8
  | .sampleRange => 8#8
  | .winIndex => 9#8
  | .winPastEnd => 10#8
  | .tsOverflow => 11#8
  | .tsNegative => 12#8
  | .badField => 13#8
  | .ioError => 14#8
  | .noFrame => 15#8

/-- R922: the outcome codes. -/
def RespOutcome.code : RespOutcome → Nat
  | .ok => 0
  | .fin => 1
  | .dropDf => 2
  | .dropCrc => 3
  | .discTc => 4
  | .discSt => 5
  | .discCallsign => 6
  | .discVelNodata => 7
  | .discHeading => 8
  | .discAirspeed => 9
  | .discAlt => 10
  | .indetZone => 11
  | .indetLat => 12
  | .timeout => 13

/-- R906: codes 16 to 255 are reserved. -/
def State.causeReserved (s : State) : Bool := decide (16 ≤ s.cause.toNat)

/-- `FAULT` (R110): bit 0 `FAULTED`, bit 1 `EOS`, bits 7..2 read as 0, bits 15..8 `CAUSE`. -/
def State.faultWord (s : State) : BitVec 16 :=
  s.cause ++ (0#6 ++ (BitVec.ofBool s.eos ++ BitVec.ofBool s.faulted))

/-- `CFG_OPTIONS` (R115, register 12): bits 15..12 are reserved 0. -/
def optionsWord (o : Config.Options) : BitVec 16 :=
  0#4 ++ (BitVec.ofBool (o.roundTie == .halfUp) ++ (BitVec.ofBool (o.nl87 == .n1) ++
    (BitVec.ofBool (o.nlEquator == .n59) ++ (o.asFactorSt4 ++ (o.gsFactorSt2 ++
      (BitVec.ofBool (o.catCaSrc == .cap) ++ (BitVec.ofBool (o.trim == .trailing) ++
        BitVec.ofBool (o.skipPrev == .zero))))))))

end Sys2Proof.Machine
end

