-- ==== Sys2Proof/Machine/Ops.lean ====
section
/-! DEFINITION. The shared operations over the state: the sample stream and the power samples made from it (42_conditioning_power.md,
43_window.md), the tracker's table, the event output, responses, the wait for bytes, taking a fault (60_exceptions.md rule
R905) and the reset that is the only way out of it (R909, R952). -/

namespace Sys2Proof.Machine

/-! ## The sample stream and the power envelope -/

/-- `Src.byte(n)`; bytes that have not been delivered are never asked for. -/
def srcByte (src : List Byte) (n : Nat) : Nat := (src.getD n 0#8).toNat

/-- Raw sample word `n`: little-endian (R210, R501). -/
def rawWord (src : List Byte) (n : Nat) : Nat := srcByte src (2 * n) ||| srcByte src (2 * n + 1) <<< 8

/-- `C(n)` (R501); 0 before the start of the stream (R511). -/
def sampleAt (src : List Byte) (n : Int) : Int :=
  if n < 0 then 0 else (rawWord src n.toNat : Int) - Config.bias

/-- The eight samples of a power sample: `odd² + even²` (R510). -/
def powerOf : List Int → Nat
  | [s0, s1, s2, s3, s4, s5, s6, s7] =>
    let odd := s1 - s3 + s5 - s7
    let even := s0 - s2 + s4 - s6
    (odd * odd + even * even).toNat
  | _ => 0

/-- `C(2k − 6) .. C(2k + 1)`, the oldest first (R510). -/
def powerSamples (src : List Byte) (k : Nat) : List Int :=
  (List.range 8).map fun (i : Nat) => sampleAt src (2 * (k : Int) - 6 + i)

/-- `P(k)` (R510). -/
def power (src : List Byte) (k : Nat) : Nat := powerOf (powerSamples src k)

/-- The lowest sample of `P(k)` whose raw word is above `SAMPLE_MAX` (R502, R911 point 4; log 13). -/
def badSample (src : List Byte) (k : Nat) : Option Nat :=
  (List.range 8).findSome? fun i =>
    if 6 ≤ 2 * k + i ∧ Config.sampleMax < rawWord src (2 * k + i - 6) then some (2 * k + i - 6) else none

/-- The power samples that the bytes delivered so far make, `NP` once the stream has ended (R222, R516). -/
def powerCount (src : List Byte) : Nat := src.length / 4

/-- `need(k)` (R557). -/
def need (src : List Byte) (eos : Bool) (k : Nat) : Need :=
  if powerCount src ≤ k then (if eos then .absent else .wait)
  else
    match badSample src k with
    | some n => .bad n (rawWord src n)
    | none => .value (power src k)

/-- What a command makes of `need(k)`: `SAMPLE_RANGE` with info `n << 16 | u` (R502), `WIN_PAST_END` with the absolute index
(R552, R553), or the sample. DESIGN CHOICE (log 23): a sample index of 2^48 or more does not fit bits 63..16 of the information
word, R502 does not say what stands there then, and the model keeps the index's low 48 bits. DESIGN CHOICE (log 14): `WIN_PAST_END`
names an absolute index of 2^64 or more modulo 2^64. -/
def Need.run (k : Nat) : Need → Run Nat
  | .wait => .wait
  | .absent => .fault .winPastEnd (BitVec.ofNat 64 k)
  | .bad n u => .fault .sampleRange (BitVec.ofNat 64 (n <<< 16 ||| u))
  | .value v => .done v

/-- Obtain several power samples in order; the first that cannot be had decides (R911 point 4; log 12). -/
def needAll (src : List Byte) (eos : Bool) : List Nat → Run Unit
  | [] => .done ()
  | k :: ks =>
    match (need src eos k).run k with
    | .done _ => needAll src eos ks
    | .fault c info => .fault c info
    | .wait => .wait

/-- The timestamp of a frame at power sample `p` would reach 2^63 (R613). -/
abbrev tsOverflows (p : Nat) : Prop := 2 ^ 63 ≤ p * Config.nsPerSample

/-- The left edge `p` is the last that 64 bits hold. No rule gives `W.pos` a value past it, and it never wraps: a command that would
step past it faults instead (R101), with `TS_OVERFLOW`, info `p` (log 14). -/
abbrev lastEdge (p : Nat) : Prop := 2 ^ 64 ≤ p + 1

/-- `Src.len` (R125). -/
def State.srcLen (s : State) : Nat := s.src.length

/-- `H[0..7]` (R126): the eight conditioned samples up to the last power sample computed, `H[7]` the newest (log 6). -/
def State.hist (s : State) : List Sample :=
  (List.range 8).map fun (i : Nat) => BitVec.ofInt 12 (sampleAt s.src (2 * (s.taken : Int) - 8 + i))

/-- Power sample `k` has been computed: the power stage has consumed the stream at least up to it (R232, R515). -/
def State.take (s : State) (k : Nat) : State := { s with taken := max s.taken (k + 1) }

/-- The window is full at left edge `p`: power sample `p + WINDOW − 1` has been delivered (R555). -/
def windowFull (src : List Byte) (p : Nat) : Bool := decide (p + Config.window ≤ powerCount src)

/-! ## The tracker's table (R150): strictly rising addresses, at most one entry each -/

/-- The canonical form of `T.table`. -/
abbrev tableWf (t : List (Icao × AircraftState)) : Prop := t.Pairwise fun p q => p.1.toNat < q.1.toNat

/-- `T.table[a]`, if there is one. -/
def tableGet (a : Icao) : List (Icao × AircraftState) → Option AircraftState
  | [] => none
  | (b, v) :: r => if b = a then some v else tableGet a r

/-- `T.table[a] <- v`. -/
def tableSet (a : Icao) (v : AircraftState) : List (Icao × AircraftState) → List (Icao × AircraftState)
  | [] => [(a, v)]
  | (b, w) :: r =>
    if a.toNat < b.toNat then (a, v) :: (b, w) :: r
    else if a = b then (a, v) :: r
    else (b, w) :: tableSet a v r

/-- `emit e` (R880). -/
def State.emit (s : State) (e : Event) : State := { s with ev := s.ev ++ [e] }

/-! ## Responses, waiting, faults and reset -/

/-- The response of a command that completes (R104). -/
def State.respond (s : State) (o : RespOutcome) (v : Value) : State := { s with resp := some (.normal o v) }

/-- Taking a fault, `raise Fault(cause, info)` (R905): the fault registers are written, the response is the fault response, and
nothing else changes. Every caller applies it to the state from before the command, so no write of the command is left. -/
def State.raiseFault (s : State) (c : Cause) (info : BitVec 64) : State :=
  { s with faulted := true, cause := c.code, faultInfo := info, resp := some (.fault c info) }

/-- The reset state of R950 in a machine with this configuration and this host (log 8, log 1). There is no return from a
fault: this is the only way out (R909). -/
def State.resetAll (s : State) : State := { State.reset with cfg := s.cfg, inbox := s.inbox }

/-- R907: a refused command changes no state; its response is `{refused}`. -/
def State.respondRefused (s : State) : State := { s with resp := some .refused }

/-- R9, R936: a command that needs bytes the host has not delivered holds; no other state changes (log 3). -/
def State.hold (s : State) (i : Instr) : State := { s with pending := some i, resp := none }

/-- R906, R907: what stands before every command but `BLK.STATUS` and `BLK.RESET`. `t` is the state the command leads to. -/
def guarded (s t : State) : Host.Outcome State Fault Refusal :=
  if s.causeReserved then .refused .reservedCause
  else if s.faulted then .next s.respondRefused
  else .next t

/-- `BLK.STATUS` and `BLK.RESET` run even when the block is faulted (R907, R912, R952). -/
def unguarded (s t : State) : Host.Outcome State Fault Refusal :=
  if s.causeReserved then .refused .reservedCause else .next t

/-- The end of a command that reads the stream, started in `s` as `i`: its result, a fault on `s`, or the wait on `s`. -/
def State.settle (s : State) (i : Instr) : Run State → State
  | .done t => t
  | .fault c info => s.raiseFault c info
  | .wait => s.hold i

/-! ## Host actions on the stream (R940) -/

/-- `deliver bs`: appended to `Src`; ignored after `eos` (D60). -/
def State.deliver (s : State) (bs : List Byte) : State := if s.eos then s else { s with src := s.src ++ bs }

/-- `eos`: `Src.eos` and its mirror `FAULT.EOS` become 1. -/
def State.signalEos (s : State) : State := { s with eos := true }

end Sys2Proof.Machine
end

