-- ==== Sys2Proof/Machine/Operands.lean ====
section
/-! DEFINITION. Operand and field access shared by the families: bit fields of a 64-bit word (40_bitfield.md), big-endian byte
ranges (R410), the fields of a frame (R240, R330), and the checks of a message operand (49_tracker.md rule R857). -/

namespace Sys2Proof.Machine

/-- `value[start + size − 1 : start]` as a 32-bit unsigned result (R401). -/
def extractUnsigned (value : BitVec 64) (start size : Nat) : BitVec 32 := (value.extractLsb' start size).setWidth 32

/-- `value[index]` (R405). -/
def testBit (value : BitVec 64) (index : Nat) : BitVec 1 := BitVec.ofBool (value.getLsbD index)

/-- `range(lo, hi)`: the big-endian integer of bytes `lo .. hi − 1` (R410, R211). -/
def byteRange (bs : List Byte) (lo hi : Nat) : BitVec 64 := BitVec.ofNat 64 (beNat ((bs.drop lo).take (hi - lo)))

/-- An information word made of a big-endian list of byte fields, as in `start << 8 | size` (R906). -/
def infoWord (fields : List (BitVec 8)) : BitVec 64 := BitVec.ofNat 64 (beNat fields)

/-! ## Frame fields (R240) -/

/-- Byte 0 of a frame. -/
def Frame.byte0 (f : Frame) : Byte := f.bytes.getD 0 0#8

/-- DF: byte 0 bits 7..3 (R656). -/
def Frame.df (f : Frame) : BitVec 5 := f.byte0.extractLsb' 3 5

/-- CA: byte 0 bits 2..0 (R657). -/
def Frame.ca (f : Frame) : BitVec 3 := f.byte0.extractLsb' 0 3

/-- ICAO: `range(1, 4)` (R658). -/
def Frame.icao (f : Frame) : Icao := (byteRange f.bytes 1 4).setWidth 24

/-- ME: `range(4, 11)` (R659). -/
def Frame.me (f : Frame) : Me := (byteRange f.bytes 4 11).setWidth 56

/-- TC: `ME[55:51]` (R660, R320). -/
def meTc (me : Me) : BitVec 5 := me.extractLsb' 51 5

/-! ## Message operands (R304, R857) -/

/-- A timestamp with bit 63 set is negative (R21, C7). -/
def tsNegative (t : Ts) : Bool := t.msb

/-- A binary64 pattern that is a NaN: exponent all ones, fraction not 0. -/
def f64IsNaN (v : F64) : Bool := v.extractLsb' 52 11 == 0x7FF#11 && v.extractLsb' 0 52 != 0#52

/-- A binary64 value that is at least 0 and not NaN; −0.0 = 0 is (log 21). -/
def f64NonNeg (v : F64) : Bool := !f64IsNaN v && (!v.msb || v == 0x8000000000000000#64)

/-- `f64(2π)` (R857). -/
def f64TwoPi : F64 := 0x401921FB54442D18#64

/-- In [0, 2π), the bound `f64(2π)` exclusive; −0.0 is accepted (95_test_vectors.md §2.11). Binary64 patterns of non-negative
values are in the order of the values. -/
def f64IsAngle (v : F64) : Bool := v == 0x8000000000000000#64 || decide (v.toNat < f64TwoPi.toNat)

/-- A call-sign character: `A`–`Z`, `0`–`9` or space (R145). -/
def callSignChar (c : Byte) : Bool :=
  decide (0x41 ≤ c.toNat ∧ c.toNat ≤ 0x5A) || decide (0x30 ≤ c.toNat ∧ c.toNat ≤ 0x39) || c == 0x20#8

/-- The message of an operand, or the fault it raises: `BAD_OPERAND` for the tag (info the tag), then `TS_NEGATIVE` (info the
timestamp), then `BAD_FIELD` in field order (info the field code) (R304, R857, R906, R911 point 2). -/
def checkMsg : MsgOperand → Run Message
  | .badTag tag => .fault .badOperand (tag.setWidth 64)
  | .ident ts icao category callSign =>
    if tsNegative ts then .fault .tsNegative ts
    else if 8 < callSign.length then .fault .badField 1#64
    else if callSign.all callSignChar then .done (.ident ts icao category callSign)
    else .fault .badField 2#64
  | .position ts icao altitudeM parity x y =>
    if tsNegative ts then .fault .tsNegative ts
    else if 1 < parity.toNat then .fault .badField 3#64
    else if f64IsNaN altitudeM then .fault .badField 4#64
    else .done (.position ⟨ts, icao, altitudeM, if parity = 0#8 then .even else .odd, x, y⟩)
  | .velocity ts icao speedMps trackRad =>
    if tsNegative ts then .fault .tsNegative ts
    else if !f64NonNeg speedMps then .fault .badField 5#64
    else if !f64IsAngle trackRad then .fault .badField 6#64
    else .done (.velocity ts icao speedMps trackRad)

/-- The operand that stands for a decoded message (R890 gives it to `TRK.UPDATE`). -/
def Message.toOperand : Message → MsgOperand
  | .ident ts icao category callSign => .ident ts icao category callSign
  | .position p => .position p.ts p.icao p.altitudeM (match p.parity with | .even => 0#8 | .odd => 1#8) p.x p.y
  | .velocity ts icao speedMps trackRad => .velocity ts icao speedMps trackRad

end Sys2Proof.Machine
end

