-- ==== Sys2Proof/Machine/BitField.lean ====
section
/-! DEFINITION. The bit-field extractor and the byte-sequence reader (40_bitfield.md). These commands read no state. -/

namespace Sys2Proof.Machine

/-- `BF.EXTRACT` (R401): the size check comes before the range check (R403). -/
def execBfExtract (value : BitVec 64) (start size : BitVec 8) (s : State) : Host.Outcome State Fault Refusal :=
  guarded s <|
    if ¬(0 < size.toNat ∧ size.toNat < 32) then s.raiseFault .bfSize (infoWord [start, size])
    else if ¬(start.toNat + size.toNat ≤ 64) then s.raiseFault .bfRange (infoWord [start, size])
    else s.respond .ok (.bits 32 (extractUnsigned value start.toNat size.toNat))

/-- `BF.TESTBIT` (R405). -/
def execBfTestbit (value : BitVec 64) (index : BitVec 8) (s : State) : Host.Outcome State Fault Refusal :=
  guarded s <|
    if ¬(index.toNat < 64) then s.raiseFault .bfIndex (infoWord [index])
    else s.respond .ok (.bits 1 (testBit value index.toNat))

/-- `BS.RANGE` (R410): the bounds check comes before the width check. -/
def execBsRange (seq : List Byte) (lo hi : BitVec 8) (s : State) : Host.Outcome State Fault Refusal :=
  guarded s <|
    if ¬(lo.toNat ≤ hi.toNat ∧ hi.toNat ≤ seq.length) then
      s.raiseFault .bsRange (infoWord [lo, hi, BitVec.ofNat 8 seq.length])
    else if ¬(hi.toNat - lo.toNat ≤ Config.rangeMax) then
      s.raiseFault .bsWidth (infoWord [lo, hi, BitVec.ofNat 8 seq.length])
    else s.respond .ok (.bits 64 (byteRange seq lo.toNat hi.toNat))

end Sys2Proof.Machine
end

