-- ==== Sys2Proof/Machine/Block.lean ====
section
/-! DEFINITION. The block's own commands: reset, status, configuration (70_reset_and_hazards.md rule R952, 60_exceptions.md rules
R912 and R913). -/

namespace Sys2Proof.Machine

/-- The configuration registers (R115), zero-extended to 64 bits; none above number 12. -/
def cfgRegister (o : Config.Options) : Nat → Option (BitVec 64)
  | 0 => some (Config.gen.setWidth 64)
  | 1 => some (BitVec.ofNat 64 Config.window)
  | 2 => some (BitVec.ofNat 64 Config.frameBytes)
  | 3 => some (BitVec.ofNat 64 Config.dfEs)
  | 4 => some (BitVec.ofNat 64 Config.bitBase)
  | 5 => some (BitVec.ofNat 64 Config.bitPitch)
  | 6 => some (BitVec.ofNat 64 Config.halfBit)
  | 7 => some (BitVec.ofNat 64 Config.skip)
  | 8 => some (BitVec.ofNat 64 Config.nsPerSample)
  | 9 => some (BitVec.ofNat 64 Config.pairWindowNs)
  | 10 => some (BitVec.ofNat 64 Config.staleNs)
  | 11 => some (BitVec.ofNat 64 Config.bias)
  | 12 => some ((optionsWord o).setWidth 64)
  | _ => none

/-- `BLK.RESET` (R952): it runs even when the block is faulted, and returns no value (log 19). -/
def execBlkReset (s : State) : Host.Outcome State Fault Refusal := unguarded s <| s.resetAll.respond .ok .empty

/-- `BLK.STATUS` (R912): it runs even when the block is faulted. -/
def execBlkStatus (s : State) : Host.Outcome State Fault Refusal :=
  unguarded s <| s.respond .ok (.status s.faultWord s.faultInfo)

/-- `BLK.CONFIG` (R913). -/
def execBlkConfig (n : BitVec 8) (s : State) : Host.Outcome State Fault Refusal :=
  guarded s <|
    match cfgRegister s.cfg n.toNat with
    | none => s.raiseFault .badOperand (n.setWidth 64)
    | some v => s.respond .ok (.bits 64 v)

end Sys2Proof.Machine
end

