-- ==== Sys2Proof/Machine/Conditioning.lean ====
section
/-! DEFINITION. The sample conditioner and the power envelope as commands (42_conditioning_power.md). They read and write no
stream state; the streaming side is in Machine/Ops.lean. -/

namespace Sys2Proof.Machine

/-- `SC.CONDITION` (R503): a word above `SAMPLE_MAX` faults, info the word; else the 12-bit two's complement sample. -/
def execScCondition (lo hi : BitVec 8) (s : State) : Host.Outcome State Fault Refusal :=
  guarded s <|
    let u := lo.toNat ||| hi.toNat <<< 8
    if Config.sampleMax < u then s.raiseFault .sampleRange (BitVec.ofNat 64 u)
    else s.respond .ok (.bits 12 (BitVec.ofInt 12 ((u : Int) - Config.bias)))

/-- The lowest index of an operand outside [−2048, 2047], counted from `i`, and that operand (R512). -/
def powerOperandBad : Nat → List (BitVec 16) → Option (Nat × BitVec 16)
  | _, [] => none
  | i, v :: r => if -2048 ≤ v.toInt ∧ v.toInt ≤ 2047 then powerOperandBad (i + 1) r else some (i, v)

/-- `PE.POWER` (R512): `s0` is the oldest sample; info `i << 16 | (s_i mod 2^16)`. -/
def execPePower (s0 s1 s2 s3 s4 s5 s6 s7 : BitVec 16) (s : State) : Host.Outcome State Fault Refusal :=
  guarded s <|
    match powerOperandBad 0 [s0, s1, s2, s3, s4, s5, s6, s7] with
    | some (i, v) => s.raiseFault .sampleRange (BitVec.ofNat 64 (i <<< 16 ||| v.toNat))
    | none => s.respond .ok (.bits 32 (BitVec.ofNat 32 (powerOf ([s0, s1, s2, s3, s4, s5, s6, s7].map BitVec.toInt))))

end Sys2Proof.Machine
end

