-- ==== Sys2Proof/Machine/Cpr.lean ====
section
/-! DEFINITION. The CPR geodetic merger (48_cpr.md). All arithmetic is exact: an angle in turns is an integer numerator over a
positive denominator. The zone count NL is decided by the transition table of R807 (log 15). -/

namespace Sys2Proof.Machine

/-- `round` of `n / d` for `d > 0`, ties by `ROUND_TIE` (R33, R802, D25). -/
def roundDiv (tie : Config.RoundTie) (n : Int) (d : Nat) : Int :=
  let q := n / (d : Int)
  let r := n % (d : Int)
  if 2 * r < d then q
  else if (d : Int) < 2 * r then q + 1
  else
    match tie with
    | .halfUp => q + 1
    | .halfEven => if q % 2 = 0 then q else q + 1

/-- `wrap` of `n / d` (R804): 1/2 turn and above lose one turn. -/
def wrapTurn (n : Int) (d : Nat) : Int := if (d : Int) ≤ 2 * n then n - d else n

/-- Re-indexing of a zone index into `zones` zones (R803, R810). -/
def reindex (j : Int) (zones : Nat) : Int := if j < 0 then j + zones else j

/-- 2^17: the denominator of the local coordinates (R801). -/
def cprScale : Nat := 131072

/-- The numerator over `zones · 2^17` of the wrapped angle `(z + v / 2^17) / zones` (R804, R811). -/
def zoneAngle (z : Int) (v : BitVec 17) (zones : Nat) : Int :=
  wrapTurn (z * cprScale + v.toNat) (zones * cprScale)

/-- The latitude zone index `j` (R802). -/
def latIndex (tie : Config.RoundTie) (y0 y1 : BitVec 17) : Int :=
  roundDiv tie (59 * (y0.toNat : Int) - 60 * (y1.toNat : Int)) cprScale

/-- `lat0`, over 60 · 2^17 (R803, R804). -/
def latEven (tie : Config.RoundTie) (y0 y1 : BitVec 17) : Int := zoneAngle (reindex (latIndex tie y0 y1) 60) y0 60

/-- `lat1`, over 59 · 2^17 (R803, R804). -/
def latOdd (tie : Config.RoundTie) (y0 y1 : BitVec 17) : Int := zoneAngle (reindex (latIndex tie y0 y1) 59) y1 59

/-! ## Number of longitude zones (R805 to R807) -/

/-- R807: φ_59 to φ_31 in units of 10^−18 turn. -/
def phiHigh : List Nat :=
  [29084642499913263, 41189373246354189, 50517398807539392, 58414985905637065, 65402902404365003,
   71747908529412652, 77608297503386570, 83087102381439949, 88255825213363944, 93166484341626259,
   97858322161012397, 102361808544265190, 106701163678119560, 110896019009274780, 114962550896118950,
   118914278117876840, 122762637539425400, 126517408962784820, 130187034791632440, 133778864669351480,
   137299345534880660, 140754171265384600, 144148401921355170, 147486559799889330, 150772707563136640,
   154010512347085010, 157203298783498190, 160354093162947980, 163465660448568650]

/-- R807: φ_30 to φ_3 in units of 10^−18 turn. -/
def phiLow : List Nat :=
  [166540535463723520, 169581049284621190, 172589351644731740, 175567429982831620, 178517125626873620,
   181440147491169400, 184338083566184110, 187212410391240990, 190064500613426100, 192895628642889770,
   195706974305211310, 198499624250805280, 201274570686915330, 204032706712996420, 206774817103476190,
   209501562684815630, 212213455299846480, 214910818370227570, 217593724525632010, 220261895151581400,
   222914533702236540, 225550037479776420, 228165471680850250, 230755540131106010, 233310376749460180,
   235810171963946860, 238209489470678320, 240376027708669480]

/-- The folded latitude of R807, as a numerator over the same denominator `2 d`: `|n| / d` up to a quarter turn, else
`1/2 − |n| / d`. -/
def foldLat (n : Int) (d : Nat) : Nat := if 4 * n.natAbs ≤ d then 2 * n.natAbs else d - 2 * n.natAbs

/-- `NL` of the latitude `n / d` turns (R807): `NL_EQUATOR` at 0, `NL_87` at 29/120, 1 above it, else one more than the number of
transition latitudes φ_2 to φ_59 above it. -/
def zoneCount (o : Config.Options) (n : Int) (d : Nat) : Nat :=
  let t := foldLat n d
  if t = 0 then (match o.nlEquator with | .n60 => 60 | .n59 => 59)
  else if 60 * t = 29 * d then (match o.nl87 with | .n2 => 2 | .n1 => 1)
  else if 29 * d < 60 * t then 1
  else 2 + (phiHigh ++ phiLow).countP fun phi => decide (t * 10 ^ 18 < phi * (2 * d))

/-! ## Longitude (R809 to R811) -/

/-- The longitude zone index `m` (R810), for `nl ≥ 2`. -/
def lonIndex (tie : Config.RoundTie) (x0 x1 : BitVec 17) (nl : Nat) : Int :=
  roundDiv tie ((x0.toNat : Int) * ((nl : Int) - 1) - (x1.toNat : Int) * nl) cprScale

/-- `lon0` (R809, R811): a numerator and its denominator. -/
def lonEven (tie : Config.RoundTie) (x0 x1 : BitVec 17) (nl : Nat) : Int × Nat :=
  if nl = 1 then (zoneAngle 0 x0 1, cprScale)
  else (zoneAngle (reindex (lonIndex tie x0 x1 nl) nl) x0 nl, nl * cprScale)

/-- `lon1` (R809, R811): a numerator and its denominator. -/
def lonOdd (tie : Config.RoundTie) (x0 x1 : BitVec 17) (nl : Nat) : Int × Nat :=
  if nl = 1 then (zoneAngle 0 x1 1, cprScale)
  else (zoneAngle (reindex (lonIndex tie x0 x1 nl) (nl - 1)) x1 (nl - 1), (nl - 1) * cprScale)

/-- `round(q · 2^32)` (R813). -/
def toT32 (tie : Config.RoundTie) (n : Int) (d : Nat) : Int := roundDiv tie (n * 2 ^ 32) d

/-- The merge of R800: `INDET_ZONE` before `INDET_LAT`; only the selected latitude is checked (R814). -/
def cprMerge (o : Config.Options) (x0 y0 x1 y1 : BitVec 17) (recent : Parity) : Merged :=
  let lat0 := latEven o.roundTie y0 y1
  let lat1 := latOdd o.roundTie y0 y1
  let n0 := zoneCount o lat0 (60 * cprScale)
  let n1 := zoneCount o lat1 (59 * cprScale)
  if n0 ≠ n1 then .indeterminate .indetZone
  else
    let lat := match recent with
      | .even => (lat0, 60 * cprScale)
      | .odd => (lat1, 59 * cprScale)
    let lon := match recent with
      | .even => lonEven o.roundTie x0 x1 n0
      | .odd => lonOdd o.roundTie x0 x1 n0
    let latT := toT32 o.roundTie lat.1 lat.2
    let lonT := toT32 o.roundTie lon.1 lon.2
    if 2 ^ 30 < latT.natAbs then .indeterminate .indetLat
    else .position ⟨BitVec.ofInt 32 lonT, BitVec.ofInt 32 latT⟩

/-- The outcome and the value that `CPR.MERGE` returns for a merge. -/
def Merged.outcome : Merged → RespOutcome
  | .position _ => .ok
  | .indeterminate reason => reason

/-- The value part of `CPR.MERGE`'s response. -/
def Merged.value : Merged → Value
  | .position p => .geo p
  | .indeterminate _ => .empty

/-- The parity that the operand `recent` names (R800). -/
def recentParity (recent : BitVec 1) : Parity := if recent = 0#1 then .even else .odd

/-- `CPR.MERGE` (R800): no operand faults. -/
def execCprMerge (x0 y0 x1 y1 : BitVec 17) (recent : BitVec 1) (s : State) : Host.Outcome State Fault Refusal :=
  let r := cprMerge s.cfg x0 y0 x1 y1 (recentParity recent)
  guarded s <| s.respond r.outcome r.value

end Sys2Proof.Machine
end

