-- ==== Sys2Proof/Machine/Altitude.lean ====
section
/-! DEFINITION. The altitude decoder and the Gray decoder (47_position_altitude.md rules R760 to R766). Altitudes are exact
integers of feet. -/

namespace Sys2Proof.Machine

/-- The XOR cascade of R765 on an `n`-bit code: `d ^= v >> i` for `i` in 1..n−1. -/
def grayCascade (v : BitVec 16) (n : Nat) : BitVec 16 := (List.range (n - 1)).foldl (fun d i => d ^^^ (v >>> (i + 1))) v

/-- The paired encoder of R766. -/
def grayEncode (v : BitVec 16) : BitVec 16 := v ^^^ (v >>> 1)

/-- Bits of the 12-bit altitude field gathered into a code, the first named bit most significant. -/
def gatherBits (a : BitVec 12) (bits : List Nat) : BitVec 16 :=
  bits.foldl (fun acc i => (acc <<< 1) ||| (BitVec.ofBool (a.getLsbD i)).setWidth 16) 0#16

/-- `qAltitude` (R761): the 11 bits without the Q bit, 25 ft each from −1000 ft, clamped at 0. -/
def qAltitude (a : BitVec 12) : Int :=
  let n : BitVec 11 := a.extractLsb' 5 7 ++ a.extractLsb' 0 4
  max 0 (25 * (n.toNat : Int) - 1000)

/-- `coarse` (R762): D1 D2 D4 A1 A2 A4 B1 B2 B4, Gray-decoded over 9 bits, with the bit layout of R325. -/
def gillhamCoarse (a : BitVec 12) : Nat := (grayCascade (gatherBits a [4, 2, 0, 10, 8, 6, 5, 3, 1]) 9).toNat

/-- `fine` before its remap (R762): C1 C2 C4, Gray-decoded over 3 bits. -/
def gillhamFine (a : BitVec 12) : Nat := (grayCascade (gatherBits a [11, 9, 7]) 3).toNat

/-- The remap of R762: 7 becomes 5, then an odd coarse value mirrors it. -/
def gillhamRemap (coarse fine : Nat) : Int :=
  let fine : Int := if fine = 7 then 5 else fine
  if coarse % 2 = 1 then 6 - fine else fine

/-- `gillham` (R762); the validity test is on the decoded fine value (R763, C4). -/
def gillham (a : BitVec 12) : Option Int :=
  let fine := gillhamFine a
  let coarse := gillhamCoarse a
  if fine = 0 ∨ fine = 5 ∨ fine = 6 then none
  else some (-1300 + 100 * gillhamRemap coarse fine + 500 * (coarse : Int))

/-- `altitudeFt` (R760): bit 4 selects the encoding; none is `Discard(DISC_ALT)`. -/
def altitudeFt (a : BitVec 12) : Option Int := if a.getLsbD 4 then some (qAltitude a) else gillham a

/-- `ALT.DECODE` (R760). -/
def execAltDecode (alt12 : BitVec 16) (s : State) : Host.Outcome State Fault Refusal :=
  guarded s <|
    if 0xFFF < alt12.toNat then s.raiseFault .badOperand (alt12.setWidth 64)
    else
      match altitudeFt (alt12.setWidth 12) with
      | some feet => s.respond .ok (.bits 32 (BitVec.ofInt 32 feet))
      | none => s.respond .discAlt .empty

/-- `GRAY.DECODE` (R765): the width is checked before the value. -/
def execGrayDecode (v : BitVec 16) (n : BitVec 8) (s : State) : Host.Outcome State Fault Refusal :=
  guarded s <|
    if ¬(1 ≤ n.toNat ∧ n.toNat ≤ 16) then s.raiseFault .badOperand (n.setWidth 64)
    else if 2 ^ n.toNat ≤ v.toNat then s.raiseFault .badOperand (v.setWidth 64)
    else s.respond .ok (.bits 16 (grayCascade v n.toNat))

end Sys2Proof.Machine
end

