-- ==== Sys2Proof/Machine/Binary64.lean ====
section
/-! DEFINITION. Real-valued results: `f64(q)`, the binary64 value nearest to an exact real, ties to even (00_scope.md rule R33).
Rational results are rounded from their exact fraction. A ground speed is the root of an integer times a fraction, and is
rounded by exact comparison of squares. A ground track is an arc tangent: it is computed in fixed point with 200 fraction
bits, far below half a unit in the last place of any result (log 9), and then rounded. -/

namespace Sys2Proof.Machine

/-- `2^e ≤ n / d`. -/
def pow2Le (e : Int) (n d : Nat) : Bool :=
  if e < 0 then decide (d ≤ n * 2 ^ (-e).toNat) else decide (d * 2 ^ e.toNat ≤ n)

/-- The exponent of `n / d`: `2^e ≤ n / d < 2^(e + 1)`, for positive `n` and `d`. -/
def ratioExp (n d : Nat) : Int :=
  let e := (n.log2 : Int) - d.log2
  if pow2Le e n d then e else e - 1

/-- `n / d` rounded to the nearest integer, ties to even. -/
def roundNat (n d : Nat) : Nat :=
  let q := n / d
  let r := n % d
  if 2 * r < d then q else if d < 2 * r then q + 1 else if q % 2 = 0 then q else q + 1

/-- The pattern of `m · 2^(e − 52)` for `2^52 ≤ m ≤ 2^53`, or of a subnormal `m · 2^(−1074)` when `e = −1022`; a mantissa that
rounded up to 2^53 carries into the exponent, and a value past the largest finite one is the infinity. -/
def packF64 (e : Int) (m : Nat) : F64 := BitVec.ofNat 64 (min ((e + 1022).toNat * 2 ^ 52 + m) (0x7FF * 2 ^ 52))

/-- `f64(n / d)` for `d > 0`; exactly 0 gives +0.0 (log 11). -/
def f64Ratio (n d : Nat) : F64 :=
  if n = 0 then 0#64
  else
    let e := max (ratioExp n d) (-1022)
    let shift := 52 - e
    let m := if shift < 0 then roundNat n (d * 2 ^ (-shift).toNat) else roundNat (n * 2 ^ shift.toNat) d
    packF64 e m

/-- `f64(z / d)` of a signed numerator. -/
def f64Signed (z : Int) (d : Nat) : F64 :=
  if z < 0 then 0x8000000000000000#64 ||| f64Ratio z.natAbs d else f64Ratio z.natAbs d

/-- The integer part of the square root of `n`, bit `k − 1` first, given the bits found above. -/
def isqrtFrom (n : Nat) : Nat → Nat → Nat
  | 0, r => r
  | k + 1, r => if (r + 2 ^ k) * (r + 2 ^ k) ≤ n then isqrtFrom n k (r + 2 ^ k) else isqrtFrom n k r

/-- The integer part of the square root. -/
def isqrt (n : Nat) : Nat := isqrtFrom n (n.log2 / 2 + 1) 0

/-- `f64(√m / d)` for `0 < d` and `m < d² · 4^53`: the mantissa is the integer part of `√(m · 4^shift) / d`, rounded up when
the rest is above one half, or is one half of an odd mantissa. -/
def f64SqrtRatio (m d : Nat) : F64 :=
  if m = 0 then 0#64
  else
    let e := ratioExp m (d * d) / 2
    let big := m * 4 ^ (52 - e).toNat
    let q := isqrt big / d
    let half := (2 * q + 1) * (2 * q + 1) * (d * d)
    let up := half < 4 * big ∨ (half = 4 * big ∧ q % 2 = 1)
    packF64 e (if up then q + 1 else q)

/-! ## Arc tangent in fixed point -/

/-- Fraction bits of a fixed-point angle. -/
def fixBits : Nat := 200

/-- Terms of Euler's series `arctan(y/x) = Σ 2^(2n) (n!)² / (2n + 1)! · (x y / (x² + y²)) · (y² / (x² + y²))^n`: from term `n`
with the value `term`, `fuel` further terms. Each term is at most half of the one before it when `y ≤ x`. -/
def atanSum (y2 s2 : Nat) : Nat → Nat → Nat → Nat
  | 0, _, _ => 0
  | fuel + 1, n, term => term + atanSum y2 s2 fuel (n + 1) (term * ((2 * n + 2) * y2) / ((2 * n + 3) * s2))

/-- `arctan(y / x)` for `y ≤ x`, `0 < x`, in units of `2^(−fixBits)`. -/
def atanFix (y x : Nat) : Nat :=
  atanSum (y * y) (x * x + y * y) 210 0 (x * y * 2 ^ fixBits / (x * x + y * y))

/-- π in units of `2^(−fixBits)`: four times `arctan(1)`. -/
def piFix : Nat := 4 * atanFix 1 1

/-- The angle of the vector with legs `a` (east) and `b` (north), both non-negative and not both 0, from north: 0 to π/2. -/
def quadrantFix (a b : Nat) : Nat := if a ≤ b then atanFix a b else piFix / 2 - atanFix b a

/-- `atan2(ew, ns)` brought into [0, 2π), fixed point (R723); (0, 0) gives 0. -/
def trackFix (ew ns : Int) : Nat :=
  if ew = 0 ∧ ns = 0 then 0
  else
    let q := quadrantFix ew.natAbs ns.natAbs
    if 0 ≤ ew then (if 0 ≤ ns then q else piFix - q)
    else (if 0 ≤ ns then 2 * piFix - q else piFix + q)

/-- `trackRad` of a ground-speed message (R723). -/
def f64Track (ew ns : Int) : F64 := f64Ratio (trackFix ew ns) (2 ^ fixBits)

/-- `f64(2π · k / 1024)` (R731). -/
def f64Heading (k : Nat) : F64 := f64Ratio (2 * piFix * k) (1024 * 2 ^ fixBits)

/-- `f64(ft × FOOT_M)` (R752). -/
def f64Metres (feet : Int) : F64 := f64Signed (feet * Config.footNum) Config.footDen

/-- `f64(k × KNOT_MPS)` of a whole number of knots (R731). -/
def f64Knots (k : Nat) : F64 := f64Ratio (k * Config.knotNum) Config.knotDen

/-- `f64(√(ew² + ns²) × KNOT_MPS)` (R722). -/
def f64GroundSpeed (ew ns : Int) : F64 :=
  f64SqrtRatio ((ew * ew + ns * ns).toNat * (Config.knotNum * Config.knotNum)) Config.knotDen

/-- The quiet NaN of an unknown altitude (R35, R151; its pattern is PRESUMED, log 10). -/
def f64NaN : F64 := 0x7FF8000000000000#64

end Sys2Proof.Machine
end

