-- ==== Sys2Proof/Machine/Crc.lean ====
section
/-! DEFINITION. The CRC-24 validator (41_crc24.md): the table ROM `TABLE` as R453 prints it (log 16), the bitwise CRC that
defines its entries (R451), the fold-and-flush recurrence (R455) and the unit's three commands. -/

namespace Sys2Proof.Machine

/-- R453: entries 0x00 to 0x1f. -/
def crcTable0 : List (BitVec 24) :=
  [0x000000#24, 0xFFF409#24, 0x001C1B#24, 0xFFE812#24, 0x003836#24, 0xFFCC3F#24, 0x00242D#24, 0xFFD024#24,
   0x00706C#24, 0xFF8465#24, 0x006C77#24, 0xFF987E#24, 0x00485A#24, 0xFFBC53#24, 0x005441#24, 0xFFA048#24,
   0x00E0D8#24, 0xFF14D1#24, 0x00FCC3#24, 0xFF08CA#24, 0x00D8EE#24, 0xFF2CE7#24, 0x00C4F5#24, 0xFF30FC#24,
   0x0090B4#24, 0xFF64BD#24, 0x008CAF#24, 0xFF78A6#24, 0x00A882#24, 0xFF5C8B#24, 0x00B499#24, 0xFF4090#24]

/-- R453: entries 0x20 to 0x3f. -/
def crcTable1 : List (BitVec 24) :=
  [0x01C1B0#24, 0xFE35B9#24, 0x01DDAB#24, 0xFE29A2#24, 0x01F986#24, 0xFE0D8F#24, 0x01E59D#24, 0xFE1194#24,
   0x01B1DC#24, 0xFE45D5#24, 0x01ADC7#24, 0xFE59CE#24, 0x0189EA#24, 0xFE7DE3#24, 0x0195F1#24, 0xFE61F8#24,
   0x012168#24, 0xFED561#24, 0x013D73#24, 0xFEC97A#24, 0x01195E#24, 0xFEED57#24, 0x010545#24, 0xFEF14C#24,
   0x015104#24, 0xFEA50D#24, 0x014D1F#24, 0xFEB916#24, 0x016932#24, 0xFE9D3B#24, 0x017529#24, 0xFE8120#24]

/-- R453: entries 0x40 to 0x5f. -/
def crcTable2 : List (BitVec 24) :=
  [0x038360#24, 0xFC7769#24, 0x039F7B#24, 0xFC6B72#24, 0x03BB56#24, 0xFC4F5F#24, 0x03A74D#24, 0xFC5344#24,
   0x03F30C#24, 0xFC0705#24, 0x03EF17#24, 0xFC1B1E#24, 0x03CB3A#24, 0xFC3F33#24, 0x03D721#24, 0xFC2328#24,
   0x0363B8#24, 0xFC97B1#24, 0x037FA3#24, 0xFC8BAA#24, 0x035B8E#24, 0xFCAF87#24, 0x034795#24, 0xFCB39C#24,
   0x0313D4#24, 0xFCE7DD#24, 0x030FCF#24, 0xFCFBC6#24, 0x032BE2#24, 0xFCDFEB#24, 0x0337F9#24, 0xFCC3F0#24]

/-- R453: entries 0x60 to 0x7f. -/
def crcTable3 : List (BitVec 24) :=
  [0x0242D0#24, 0xFDB6D9#24, 0x025ECB#24, 0xFDAAC2#24, 0x027AE6#24, 0xFD8EEF#24, 0x0266FD#24, 0xFD92F4#24,
   0x0232BC#24, 0xFDC6B5#24, 0x022EA7#24, 0xFDDAAE#24, 0x020A8A#24, 0xFDFE83#24, 0x021691#24, 0xFDE298#24,
   0x02A208#24, 0xFD5601#24, 0x02BE13#24, 0xFD4A1A#24, 0x029A3E#24, 0xFD6E37#24, 0x028625#24, 0xFD722C#24,
   0x02D264#24, 0xFD266D#24, 0x02CE7F#24, 0xFD3A76#24, 0x02EA52#24, 0xFD1E5B#24, 0x02F649#24, 0xFD0240#24]

/-- R453: entries 0x80 to 0x9f. -/
def crcTable4 : List (BitVec 24) :=
  [0x0706C0#24, 0xF8F2C9#24, 0x071ADB#24, 0xF8EED2#24, 0x073EF6#24, 0xF8CAFF#24, 0x0722ED#24, 0xF8D6E4#24,
   0x0776AC#24, 0xF882A5#24, 0x076AB7#24, 0xF89EBE#24, 0x074E9A#24, 0xF8BA93#24, 0x075281#24, 0xF8A688#24,
   0x07E618#24, 0xF81211#24, 0x07FA03#24, 0xF80E0A#24, 0x07DE2E#24, 0xF82A27#24, 0x07C235#24, 0xF8363C#24,
   0x079674#24, 0xF8627D#24, 0x078A6F#24, 0xF87E66#24, 0x07AE42#24, 0xF85A4B#24, 0x07B259#24, 0xF84650#24]

/-- R453: entries 0xa0 to 0xbf. -/
def crcTable5 : List (BitVec 24) :=
  [0x06C770#24, 0xF93379#24, 0x06DB6B#24, 0xF92F62#24, 0x06FF46#24, 0xF90B4F#24, 0x06E35D#24, 0xF91754#24,
   0x06B71C#24, 0xF94315#24, 0x06AB07#24, 0xF95F0E#24, 0x068F2A#24, 0xF97B23#24, 0x069331#24, 0xF96738#24,
   0x0627A8#24, 0xF9D3A1#24, 0x063BB3#24, 0xF9CFBA#24, 0x061F9E#24, 0xF9EB97#24, 0x060385#24, 0xF9F78C#24,
   0x0657C4#24, 0xF9A3CD#24, 0x064BDF#24, 0xF9BFD6#24, 0x066FF2#24, 0xF99BFB#24, 0x0673E9#24, 0xF987E0#24]

/-- R453: entries 0xc0 to 0xdf. -/
def crcTable6 : List (BitVec 24) :=
  [0x0485A0#24, 0xFB71A9#24, 0x0499BB#24, 0xFB6DB2#24, 0x04BD96#24, 0xFB499F#24, 0x04A18D#24, 0xFB5584#24,
   0x04F5CC#24, 0xFB01C5#24, 0x04E9D7#24, 0xFB1DDE#24, 0x04CDFA#24, 0xFB39F3#24, 0x04D1E1#24, 0xFB25E8#24,
   0x046578#24, 0xFB9171#24, 0x047963#24, 0xFB8D6A#24, 0x045D4E#24, 0xFBA947#24, 0x044155#24, 0xFBB55C#24,
   0x041514#24, 0xFBE11D#24, 0x04090F#24, 0xFBFD06#24, 0x042D22#24, 0xFBD92B#24, 0x043139#24, 0xFBC530#24]

/-- R453: entries 0xe0 to 0xff. -/
def crcTable7 : List (BitVec 24) :=
  [0x054410#24, 0xFAB019#24, 0x05580B#24, 0xFAAC02#24, 0x057C26#24, 0xFA882F#24, 0x05603D#24, 0xFA9434#24,
   0x05347C#24, 0xFAC075#24, 0x052867#24, 0xFADC6E#24, 0x050C4A#24, 0xFAF843#24, 0x051051#24, 0xFAE458#24,
   0x05A4C8#24, 0xFA50C1#24, 0x05B8D3#24, 0xFA4CDA#24, 0x059CFE#24, 0xFA68F7#24, 0x0580E5#24, 0xFA74EC#24,
   0x05D4A4#24, 0xFA20AD#24, 0x05C8BF#24, 0xFA3CB6#24, 0x05EC92#24, 0xFA189B#24, 0x05F089#24, 0xFA0480#24]

/-- `TABLE` (R120, R453): 256 entries of 24 bits. -/
def crcTable : List (BitVec 24) :=
  crcTable0 ++ crcTable1 ++ crcTable2 ++ crcTable3 ++ crcTable4 ++ crcTable5 ++ crcTable6 ++ crcTable7

/-- `TABLE[i]`. -/
def crcEntry (i : BitVec 8) : BitVec 24 := crcTable.getD i.toNat 0#24

/-- One bit of the bitwise CRC (R451): shift in `b`, reduce by the generator if the top bit was 1. -/
def bitcrcStep (c : BitVec 24) (b : Bool) : BitVec 24 :=
  let shifted := (c <<< 1) ||| (BitVec.ofBool b).setWidth 24
  if c.getLsbD 23 then shifted ^^^ Config.gen else shifted

/-- `bitcrc(bs)` (R451): the bits of each byte, most significant first, then 24 zero bits. -/
def bitcrc (bs : List Byte) : BitVec 24 :=
  let folded := bs.foldl (fun c b => (List.range 8).foldl (fun c i => bitcrcStep c (b.getLsbD (7 - i))) c) 0#24
  (List.range 24).foldl (fun c _ => bitcrcStep c false) folded

/-- One byte of the table recurrence (R455). -/
def crcStep (acc : BitVec 24) (b : Byte) : BitVec 24 :=
  ((acc <<< 8) ||| b.setWidth 24) ^^^ crcEntry (acc.extractLsb' 16 8)

/-- `crc(bs)` (R455): fold the bytes from 0, then flush three zero bytes. -/
def crcBytes (bs : List Byte) : BitVec 24 := (bs ++ [0#8, 0#8, 0#8]).foldl crcStep 0#24

/-- `CRC.COMPUTE` (R455). -/
def execCrcCompute (seq : List Byte) (s : State) : Host.Outcome State Fault Refusal :=
  guarded s <| s.respond .ok (.bits 24 (crcBytes seq))

/-- `CRC.CHECK` (R460). -/
def execCrcCheck (seq : List Byte) (s : State) : Host.Outcome State Fault Refusal :=
  guarded s <| s.respond .ok (.bits 1 (BitVec.ofBool (crcBytes seq == 0#24)))

/-- `CRC.TABLE` (R454). -/
def execCrcTable (index : BitVec 8) (s : State) : Host.Outcome State Fault Refusal :=
  guarded s <| s.respond .ok (.bits 24 (crcEntry index))

end Sys2Proof.Machine
end

