-- ==== Sys2Proof/Machine/Window.lean ====
section
/-! DEFINITION. The sliding power window (43_window.md): `W.get(i) = P(W.pos + i)`, whatever the buffers hold (R551). A command
that needs a power sample the host has not delivered holds until the host acts (R557). -/

namespace Sys2Proof.Machine

/-- `need(k)` as seen from the state (R557). -/
def State.needRun (s : State) (k : Nat) : Run Nat := (need s.src s.eos k).run k

/-- `WIN.GET` after its index check (R552). -/
def winGetRun (i : Nat) (s : State) : Run State :=
  match s.needRun (s.wpos.toNat + i) with
  | .done v => .done ((s.take (s.wpos.toNat + i)).respond .ok (.bits 32 (BitVec.ofNat 32 v)))
  | .fault c info => .fault c info
  | .wait => .wait

/-- `WIN.GET` (R552): `WIN_INDEX` before any read. -/
def execWinGet (i : BitVec 16) (s : State) : Host.Outcome State Fault Refusal :=
  guarded s <|
    if ¬(i.toNat < Config.window) then s.raiseFault .winIndex (i.setWidth 64)
    else s.settle (.winGet i) (winGetRun i.toNat s)

/-- One `advance()` by the host (R553): the left edge moves by one sample and `D.prev` becomes stale. From the last
64-bit edge it faults (R101; log 14). -/
def advanceRun (s : State) : Run State :=
  match s.needRun s.wpos.toNat with
  | .done _ =>
    if lastEdge s.wpos.toNat then .fault .tsOverflow s.wpos
    else .done { s.take s.wpos.toNat with wpos := s.wpos + 1#64, dprev := .stale }
  | .fault c info => .fault c info
  | .wait => .wait

/-- `advance()` applied `n` times (R554). -/
def advanceByRun : Nat → State → Run State
  | 0, s => .done s
  | n + 1, s =>
    match advanceRun s with
    | .done t => advanceByRun n t
    | .fault c info => .fault c info
    | .wait => .wait

/-- The response of a command with no result. -/
def Run.respondEmpty : Run State → Run State
  | .done t => .done (t.respond .ok .empty)
  | .fault c info => .fault c info
  | .wait => .wait

/-- `WIN.ADVANCE` (R553). -/
def execWinAdvance (s : State) : Host.Outcome State Fault Refusal :=
  guarded s <| s.settle .winAdvance (advanceRun s).respondEmpty

/-- `WIN.ADVANCEBY` (R554): atomic, so a fault leaves the state of before the command. -/
def execWinAdvanceby (n : BitVec 32) (s : State) : Host.Outcome State Fault Refusal :=
  guarded s <| s.settle (.winAdvanceby n) (advanceByRun n.toNat s).respondEmpty

/-- `WIN.ISFULL` (R555): it waits until it can answer and computes no power sample. -/
def isFullRun (s : State) : Run Bool :=
  if windowFull s.src s.wpos.toNat then .done true else if s.eos then .done false else .wait

/-- `WIN.ISFULL` (R555). -/
def execWinIsfull (s : State) : Host.Outcome State Fault Refusal :=
  guarded s <|
    s.settle .winIsfull <|
      match isFullRun s with
      | .done b => .done (s.respond .ok (.bits 1 (BitVec.ofBool b)))
      | .fault c info => .fault c info
      | .wait => .wait

/-- `WIN.POSITION` (R556): it never waits. -/
def execWinPosition (s : State) : Host.Outcome State Fault Refusal :=
  guarded s <| s.respond .ok (.bits 64 s.wpos)

end Sys2Proof.Machine
end

