-- ==== Sys2Proof/Machine/Demodulator.lean ====
section
/-! DEFINITION. The demodulator (44_demodulator.md): preamble correlator, bit slicer, frame synchronizer. Each scan position
first obtains the power samples its pseudocode needs, in that order (log 12), and then computes from them. -/

namespace Sys2Proof.Machine

/-! ## Preamble correlator (R601 to R604) -/

/-- `score(p)` (R601). -/
def score (src : List Byte) (p : Nat) : Nat := (Config.highOffs.map fun o => power src (p + o)).sum

/-- `low(p)` (R602). -/
def lowSum (src : List Byte) (p : Nat) : Nat := (Config.lowOffs.map fun o => power src (p + o)).sum

/-- `resolve()` at position `p` (R604): the score at `p − 1`. -/
def resolvePrev (src : List Byte) (sp : Config.SkipPrev) (p : Nat) : Prev → Nat
  | .score v => v.toNat
  | .stale => if p = 0 ∨ sp = .zero then 0 else score src (p - 1)

/-- The power samples that `resolve()` needs at `p`. -/
def resolveReads (sp : Config.SkipPrev) (p : Nat) : Prev → List Nat
  | .score _ => []
  | .stale => if p = 0 ∨ sp = .zero then [] else Config.highOffs.map fun o => p - 1 + o

/-- The power samples that position `p` needs for the preamble test, in the order of R610. -/
def preambleReads (sp : Config.SkipPrev) (p : Nat) (prev : Prev) : List Nat :=
  resolveReads sp p prev ++ (Config.highOffs.map fun o => p + o) ++ (Config.highOffs.map fun o => p + 1 + o) ++
    (Config.lowOffs.map fun o => p + o)

/-- The preamble test (R603); `prev` is the resolved score at `p − 1`. -/
def accepts (src : List Byte) (p prev : Nat) : Bool :=
  decide (2 * lowSum src p ≤ score src p ∧ prev < score src p ∧ score src (p + 1) < score src p)

/-! ## Bit slicer (R606, R607) -/

/-- The two comparison points of message bit `j` at position `p` (R606). -/
def bitReads (p j : Nat) : List Nat :=
  [p + Config.bitBase + Config.bitPitch * j, p + Config.bitBase + Config.bitPitch * j + Config.halfBit]

/-- Message bit `j` at position `p` (R606); equal powers give 1. -/
def sliceBit (src : List Byte) (p j : Nat) : Bool :=
  decide (power src (p + Config.bitBase + Config.bitPitch * j + Config.halfBit) ≤
    power src (p + Config.bitBase + Config.bitPitch * j))

/-- Byte `m` at position `p`, most significant bit first (R607). -/
def sliceByte (src : List Byte) (p m : Nat) : Byte :=
  (List.range 8).foldl (fun b i => (b <<< 1) ||| (BitVec.ofBool (sliceBit src p (8 * m + i))).setWidth 8) 0#8

/-- The power samples that byte `m` needs. -/
def byteReads (p m : Nat) : List Nat := (List.range 8).flatMap fun i => bitReads p (8 * m + i)

/-! ## Frame synchronizer -/

/-- `size(byte0)` (R608, R311): the frame length that byte 0 announces. -/
def frameSize (b : Byte) : Nat := if (b.extractLsb' 3 5).toNat = Config.dfEs then Config.frameBytes else 0

/-- One scan position of R610 with a full window: the preamble test, then byte 0, then, for a 14-byte frame only, the other
13 bytes and the CRC. -/
def examine (src : List Byte) (eos : Bool) (sp : Config.SkipPrev) (p : Nat) (prev : Prev) : Run Exam :=
  match needAll src eos (preambleReads sp p prev) with
  | .fault c info => .fault c info
  | .wait => .wait
  | .done _ =>
    if accepts src p (resolvePrev src sp p prev) then
      match needAll src eos (byteReads p 0) with
      | .fault c info => .fault c info
      | .wait => .wait
      | .done _ =>
        if frameSize (sliceByte src p 0) = Config.frameBytes then
          match needAll src eos ((List.range 13).flatMap fun m => byteReads p (m + 1)) with
          | .fault c info => .fault c info
          | .wait => .wait
          | .done _ =>
            let bytes := (List.range Config.frameBytes).map (sliceByte src p)
            if crcBytes bytes = 0#24 then .done (.found bytes (p + 1196)) else .done (.rejected (score src p) (p + 1196))
        else .done (.rejected (score src p) (p + 156))
    else .done (.rejected (score src p) (p + 47))

/-- How many left edges from `p` on have a full window; 0 exactly when the window at `p` is not full (R555, R616). -/
def fullPositions (src : List Byte) (p : Nat) : Nat := powerCount src + 1 - (p + Config.window)

/-- The loop of R610 from left edge `p`: a frame whose timestamp overflows faults, info its position (R613), and a position without
a valid frame is passed by whatever its timestamp would be, unless it is the last 64-bit edge (R101; log 14). The first argument is
`fullPositions src p`, which each step lowers by one; `taken` is the number of power samples computed so far. -/
def scan (src : List Byte) (eos : Bool) (sp : Config.SkipPrev) : Nat → Nat → Prev → Nat → Run Scan
  | 0, p, prev, taken => if eos then .done (.ended p prev taken) else .wait
  | n + 1, p, prev, taken =>
    match examine src eos sp p prev with
    | .fault c info => .fault c info
    | .wait => .wait
    | .done (.found bytes t) =>
      if tsOverflows p then .fault .tsOverflow (BitVec.ofNat 64 p)
      else .done (.frame p bytes (max taken t))
    | .done (.rejected cur t) =>
      if lastEdge p then .fault .tsOverflow (BitVec.ofNat 64 p)
      else scan src eos sp n (p + 1) (.score (BitVec.ofNat 32 cur)) (max taken t)

/-- `DEM.NEXT` up to its response (R610): the next state and the frame, or no frame at the end of the input. -/
def demRun (s : State) : Run (State × Option Frame) :=
  match s.dstate with
  | .done => .done (s, none)
  | .scanning =>
    match scan s.src s.eos s.cfg.skipPrev (fullPositions s.src s.wpos.toNat) s.wpos.toNat s.dprev s.taken with
    | .fault c info => .fault c info
    | .wait => .wait
    | .done (.ended p prev taken) =>
      .done ({ s with wpos := BitVec.ofNat 64 p, dprev := prev, dstate := .done, taken := taken }, none)
    | .done (.frame p bytes taken) =>
      let f : Frame := ⟨BitVec.ofNat 64 (p * Config.nsPerSample), bytes⟩
      .done ({ s with wpos := BitVec.ofNat 64 (p + Config.skip), dprev := .stale, frame := some f, taken := taken }, some f)

/-- The response of `DEM.NEXT`: the frame, or `END`. -/
def demRespond : Run (State × Option Frame) → Run State
  | .done (t, some f) => .done (t.respond .ok (.frame f))
  | .done (t, none) => .done (t.respond .fin .empty)
  | .fault c info => .fault c info
  | .wait => .wait

/-- `DEM.SIZE` (R608). -/
def execDemSize (byte0 : BitVec 8) (s : State) : Host.Outcome State Fault Refusal :=
  guarded s <| s.respond .ok (.bits 8 (BitVec.ofNat 8 (frameSize byte0)))

/-- `DEM.NEXT` (R610). -/
def execDemNext (s : State) : Host.Outcome State Fault Refusal :=
  guarded s <| s.settle .demNext (demRespond (demRun s))

end Sys2Proof.Machine
end

