-- ==== Sys2Proof/Machine/RawFrame.lean ====
section
/-! DEFINITION. The raw frame register, injection and accessors (45_rawframe.md). Every accessor reads `F`, changes nothing and
faults with `NO_FRAME` when `F` is none (R652). -/

namespace Sys2Proof.Machine

/-- What an accessor does with the frame register (R652): info 0 when there is no frame. -/
def State.withFrame (s : State) (value : Frame → Value) : State :=
  match s.frame with
  | none => s.raiseFault .noFrame 0#64
  | some f => s.respond .ok (value f)

/-- `FRM.INJECT` (R651): the timestamp, then DF, then the CRC; a dropped record leaves `F` as it was. -/
def execFrmInject (ts : Ts) (frame : List Byte) (s : State) : Host.Outcome State Fault Refusal :=
  guarded s <|
    if tsNegative ts then s.raiseFault .tsNegative ts
    else if (Frame.df ⟨ts, frame⟩).toNat ≠ Config.dfEs then s.respond .dropDf .empty
    else if crcBytes frame ≠ 0#24 then s.respond .dropCrc .empty
    else { s with frame := some ⟨ts, frame⟩ }.respond .ok (.frame ⟨ts, frame⟩)

/-- `FRM.TS` (R655). -/
def execFrmTs (s : State) : Host.Outcome State Fault Refusal := guarded s <| s.withFrame fun f => .bits 64 f.ts

/-- `FRM.DF` (R656). -/
def execFrmDf (s : State) : Host.Outcome State Fault Refusal := guarded s <| s.withFrame fun f => .bits 5 f.df

/-- `FRM.CA` (R657). -/
def execFrmCa (s : State) : Host.Outcome State Fault Refusal := guarded s <| s.withFrame fun f => .bits 3 f.ca

/-- `FRM.ICAO` (R658). -/
def execFrmIcao (s : State) : Host.Outcome State Fault Refusal := guarded s <| s.withFrame fun f => .bits 24 f.icao

/-- `FRM.ME` (R659): 56 bits, zero-extended to 64. -/
def execFrmMe (s : State) : Host.Outcome State Fault Refusal :=
  guarded s <| s.withFrame fun f => .bits 64 (f.me.setWidth 64)

/-- `FRM.TC` (R660). -/
def execFrmTc (s : State) : Host.Outcome State Fault Refusal := guarded s <| s.withFrame fun f => .bits 5 (meTc f.me)

/-- `FRM.BYTES` (R661). -/
def execFrmBytes (s : State) : Host.Outcome State Fault Refusal := guarded s <| s.withFrame fun f => .bytes f.bytes

end Sys2Proof.Machine
end

