-- ==== Sys2Proof/Machine/Messages.lean ====
section
/-! DEFINITION. The message classifier, the identification, velocity and position decoders and the call-sign alphabet
(46_classify_ident_velocity.md, 47_position_altitude.md rules R750 to R753). -/

namespace Sys2Proof.Machine

/-! ## Identification (R710 to R715) -/

/-- The call-sign alphabet (R712), as ASCII: letters, digits, space, and `?` for an invalid code. -/
def alphabet (code : BitVec 6) : Byte :=
  if 1 ≤ code.toNat ∧ code.toNat ≤ 26 then BitVec.ofNat 8 (0x40 + code.toNat)
  else if code.toNat = 32 then 0x20#8
  else if 48 ≤ code.toNat ∧ code.toNat ≤ 57 then BitVec.ofNat 8 code.toNat
  else 0x3F#8

/-- Characters `c1` to `c8` (R711): character k is `me[53 − 6k : 48 − 6k]`. -/
def identChars (me : Me) : List Byte := (List.range 8).map fun k => alphabet (me.extractLsb' (42 - 6 * k) 6)

/-- The trimming of R715. -/
def trimCallSign (trim : Config.Trim) (chars : List Byte) : List Byte :=
  match trim with
  | .leading => chars.dropWhile (· == 0x20#8)
  | .trailing => (chars.reverse.dropWhile (· == 0x20#8)).reverse

/-- The "CA-field" of the category (R710). -/
def categoryCa (o : Config.Options) (f : Frame) (me : Me) : BitVec 3 :=
  match o.catCaSrc with
  | .me => me.extractLsb' 48 3
  | .cap => f.ca

/-- `category` (R710): `((14 − tc) << 3) | ca`. -/
def identCategory (tc : BitVec 5) (ca : BitVec 3) : BitVec 8 :=
  (BitVec.ofNat 8 (14 - tc.toNat) <<< 3) ||| ca.setWidth 8

/-- `decodeIdent` (R715): a `?` anywhere discards the message, before any trimming (R714). -/
def decodeIdent (o : Config.Options) (f : Frame) (tc : BitVec 5) (me : Me) : Decoded :=
  let chars := identChars me
  if chars.contains 0x3F#8 then .discard .discCallsign
  else .message (.ident f.ts f.icao (identCategory tc (categoryCa o f me)) (trimCallSign o.trim chars))

/-! ## Velocity (R720 to R732) -/

/-- A ground-speed component (R721): `(V − 1) · factor`, negated if the sign bit is 1. -/
def velocityComponent (v : BitVec 10) (sign : Bool) (factor : Nat) : Int :=
  if sign then -((v.toNat - 1 : Nat) * factor : Nat) else ((v.toNat - 1 : Nat) * factor : Nat)

/-- The ground-speed path (R721 to R723): `V = 0` in either component discards the message. -/
def decodeGroundSpeed (f : Frame) (me : Me) (factor : Nat) : Decoded :=
  let vew : BitVec 10 := me.extractLsb' 32 10
  let vns : BitVec 10 := me.extractLsb' 21 10
  if vew = 0#10 ∨ vns = 0#10 then .discard .discVelNodata
  else
    let ew := velocityComponent vew (me.getLsbD 42) factor
    let ns := velocityComponent vns (me.getLsbD 31) factor
    .message (.velocity f.ts f.icao (f64GroundSpeed ew ns) (f64Track ew ns))

/-- The airspeed path (R730, R731): the heading is checked before the airspeed. -/
def decodeAirspeed (f : Frame) (me : Me) (factor : Nat) : Decoded :=
  let airspeed : BitVec 10 := me.extractLsb' 21 10
  if me.getLsbD 42 = false then .discard .discHeading
  else if airspeed = 0#10 then .discard .discAirspeed
  else
    .message (.velocity f.ts f.icao (f64Knots ((airspeed.toNat - 1) * factor))
      (f64Heading (me.extractLsb' 32 10).toNat))

/-- `decodeVelocity` (R725): the subtype selects the path. -/
def decodeVelocity (o : Config.Options) (f : Frame) (me : Me) : Decoded :=
  let st : BitVec 3 := me.extractLsb' 48 3
  if st = 1#3 then decodeGroundSpeed f me Config.gsFactorSt1
  else if st = 2#3 then decodeGroundSpeed f me o.gsFactorSt2.toNat
  else if st = 3#3 then decodeAirspeed f me Config.asFactorSt3
  else if st = 4#3 then decodeAirspeed f me o.asFactorSt4.toNat
  else .discard .discSt

/-! ## Position (R750 to R753) -/

/-- `decodePosition` (R750). -/
def decodePosition (f : Frame) (me : Me) : Decoded :=
  match altitudeFt (me.extractLsb' 36 12) with
  | none => .discard .discAlt
  | some feet =>
    .message (.position
      { ts := f.ts, icao := f.icao, altitudeM := f64Metres feet
        parity := if me.getLsbD 34 then .odd else .even
        x := me.extractLsb' 0 17, y := me.extractLsb' 17 17 })

/-! ## Classifier (R700) -/

/-- The body of `MSG.DECODE` (R700, R340): the type code selects the decoder; 19 is tested before 9 to 22. -/
def decodeFrame (o : Config.Options) (f : Frame) : Decoded :=
  let me := f.me
  let tc := meTc me
  if 1 ≤ tc.toNat ∧ tc.toNat ≤ 4 then decodeIdent o f tc me
  else if tc.toNat = 19 then decodeVelocity o f me
  else if 9 ≤ tc.toNat ∧ tc.toNat ≤ 22 then decodePosition f me
  else .discard .discTc

/-- `MSG.DECODE` (R700): `F` is unchanged. -/
def execMsgDecode (s : State) : Host.Outcome State Fault Refusal :=
  guarded s <|
    match s.frame with
    | none => s.raiseFault .noFrame 0#64
    | some f =>
      match decodeFrame s.cfg f with
      | .message m => s.respond .ok (.message m)
      | .discard reason => s.respond reason .empty

/-- `CS.CHAR` (R713). -/
def execCsChar (code : BitVec 8) (s : State) : Host.Outcome State Fault Refusal :=
  guarded s <|
    if 63 < code.toNat then s.raiseFault .badOperand (code.setWidth 64)
    else s.respond .ok (.bits 8 (alphabet (code.setWidth 6)))

end Sys2Proof.Machine
end

