-- ==== Sys2Proof/Machine/Tracker.lean ====
section
/-! DEFINITION. The aircraft tracker, the event output and the pipeline step (49_tracker.md). -/

namespace Sys2Proof.Machine

/-! ## Update (R850 to R857) -/

/-- The timestamp of a message (R145). -/
def Message.ts : Message → Ts
  | .ident ts _ _ _ => ts
  | .position p => p.ts
  | .velocity ts _ _ _ => ts

/-- The address of a message (R145). -/
def Message.icao : Message → Icao
  | .ident _ icao _ _ => icao
  | .position p => p.icao
  | .velocity _ icao _ _ => icao

/-- `fresh(ts)` (R851, R151). -/
def AircraftState.fresh (ts : Ts) : AircraftState where
  lastSeenNs := ts
  category := none
  callSign := none
  position := none
  altitudeM := f64NaN
  speedMps := none
  trackRad := none
  slotEven := none
  slotOdd := none

/-- The slot of a parity. -/
def AircraftState.slot (a : AircraftState) : Parity → Option PositionMsg
  | .even => a.slotEven
  | .odd => a.slotOdd

/-- The other parity. -/
def Parity.other : Parity → Parity
  | .even => .odd
  | .odd => .even

/-- R855: the message into the slot of its parity, and its altitude. -/
def AircraftState.store (a : AircraftState) (p : PositionMsg) : AircraftState :=
  match p.parity with
  | .even => { a with altitudeM := p.altitudeM, slotEven := some p }
  | .odd => { a with altitudeM := p.altitudeM, slotOdd := some p }

/-- The merge of a message with the message of the other slot; the hint is the parity of `p` (R856, D45). -/
def mergePair (o : Config.Options) (p other : PositionMsg) : Merged :=
  match p.parity with
  | .even => cprMerge o p.x p.y other.x other.y .even
  | .odd => cprMerge o other.x other.y p.x p.y .odd

/-- `|a − b|` of two timestamps over ℤ (R856). -/
def tsGap (a b : Ts) : Nat := ((a.toNat : Int) - b.toNat).natAbs

/-- `positionUpdate` (R856): the merge's outcome comes before the pairing window. -/
def positionUpdate (o : Config.Options) (a : AircraftState) (p : PositionMsg) : AircraftState × RespOutcome :=
  let b := a.store p
  match a.slot p.parity.other with
  | none => (b, .ok)
  | some other =>
    match mergePair o p other with
    | .indeterminate reason => (b, reason)
    | .position geo => if Config.pairWindowNs < tsGap p.ts other.ts then (b, .timeout) else ({ b with position := some geo }, .ok)

/-- What a message does to its aircraft's entry, after "last seen" is written (R853 to R856). -/
def applyMessage (o : Config.Options) (a : AircraftState) : Message → AircraftState × RespOutcome
  | .ident _ _ category callSign => ({ a with category := some category, callSign := some callSign }, .ok)
  | .position p => positionUpdate o a p
  | .velocity _ _ speedMps trackRad => ({ a with speedMps := some speedMps, trackRad := some trackRad }, .ok)

/-- The entry a message starts from: the one of its address, or a fresh one, with "last seen" written (R851, R852). -/
def entryFor (t : List (Icao × AircraftState)) (m : Message) : AircraftState :=
  match tableGet m.icao t with
  | some a => { a with lastSeenNs := m.ts }
  | none => AircraftState.fresh m.ts

/-- The event of an update (R880, R881): `Add` for a new address, else `Update`. -/
def updateEvent (t : List (Icao × AircraftState)) (icao : Icao) (a : AircraftState) : Event :=
  match tableGet icao t with
  | none => .add icao a
  | some _ => .update icao a

/-- The body of `TRK.UPDATE` for a checked message (R850): the next state, and the outcome. -/
def trackMessage (s : State) (m : Message) : State × RespOutcome :=
  let r := applyMessage s.cfg (entryFor s.table m) m
  (({ s with table := tableSet m.icao r.1 s.table, lastNs := some m.ts }).emit (updateEvent s.table m.icao r.1), r.2)

/-- `TRK.UPDATE` (R850): its checks come before any state changes. -/
def execTrkUpdate (msg : MsgOperand) (s : State) : Host.Outcome State Fault Refusal :=
  guarded s <|
    s.settle (.trkUpdate msg) <|
      match checkMsg msg with
      | .done m => .done ((trackMessage s m).1.respond (trackMessage s m).2 .empty)
      | .fault c info => .fault c info
      | .wait => .wait

/-! ## Purge (R860 to R862) -/

/-- R860: an entry is stale when `now` is more than `STALE_NS` after it was last seen, over ℤ. -/
def isStale (now : Ts) (a : AircraftState) : Bool :=
  decide ((Config.staleNs : Int) < (now.toNat : Int) - a.lastSeenNs.toNat)

/-- `TRK.PURGE` (R860): the table is in ascending address order, so the `Remove` events come in that order (R862). -/
def execTrkPurge (now : Ts) (s : State) : Host.Outcome State Fault Refusal :=
  guarded s <|
    if tsNegative now then s.raiseFault .tsNegative now
    else
      let gone := s.table.filter fun e => isStale now e.2
      { s with
        table := s.table.filter fun e => !isStale now e.2
        ev := s.ev ++ gone.map fun (e : Icao × AircraftState) => Event.remove e.1 }.respond .ok (.bits 32 (BitVec.ofNat 32 gone.length))

/-! ## Reads and the event output -/

/-- `TRK.READ` (R870). -/
def execTrkRead (icao : Icao) (s : State) : Host.Outcome State Fault Refusal :=
  guarded s <| s.respond .ok (.aircraft (tableGet icao s.table))

/-- `TRK.LAST` (R871). -/
def execTrkLast (s : State) : Host.Outcome State Fault Refusal := guarded s <| s.respond .ok (.time s.lastNs)

/-- `EV.POP` (R882). -/
def execEvPop (s : State) : Host.Outcome State Fault Refusal :=
  guarded s <| { s with ev := s.ev.tail }.respond .ok (.event s.ev.head?)

/-! ## Pipeline (R890) -/

/-- `PIPE.STEP` after its `DEM.NEXT` (R890): `END`, or `MSG.DECODE` of the frame, then `TRK.UPDATE` of the message. -/
def pipeRun : Run (State × Option Frame) → Run State
  | .fault c info => .fault c info
  | .wait => .wait
  | .done (t, none) => .done (t.respond .fin .empty)
  | .done (t, some f) =>
    match decodeFrame t.cfg f with
    | .discard reason => .done (t.respond reason (.frame f))
    | .message m =>
      match checkMsg m.toOperand with
      | .fault c info => .fault c info
      | .wait => .wait
      | .done checked => .done ((trackMessage t checked).1.respond (trackMessage t checked).2 (.message m))

/-- `PIPE.STEP` (R890): one atomic command. -/
def execPipeStep (s : State) : Host.Outcome State Fault Refusal :=
  guarded s <| s.settle .pipeStep (pipeRun (demRun s))

end Sys2Proof.Machine
end

