-- ==== Sys2Proof/Machine/Dispatch.lean ====
section
/-! DEFINITION. One arm per command: a direct call of its meaning. -/

namespace Sys2Proof.Machine

def exec (i : Instr) (s : State) : Host.Outcome State Fault Refusal :=
  match i with
  | .bfExtract value start size => Sys2Proof.Machine.execBfExtract value start size s
  | .bfTestbit value index => Sys2Proof.Machine.execBfTestbit value index s
  | .bsRange seq lo hi => Sys2Proof.Machine.execBsRange seq lo hi s
  | .crcCompute seq => Sys2Proof.Machine.execCrcCompute seq s
  | .crcCheck seq => Sys2Proof.Machine.execCrcCheck seq s
  | .crcTable index => Sys2Proof.Machine.execCrcTable index s
  | .scCondition lo hi => Sys2Proof.Machine.execScCondition lo hi s
  | .pePower s0 s1 s2 s3 s4 s5 s6 s7 => Sys2Proof.Machine.execPePower s0 s1 s2 s3 s4 s5 s6 s7 s
  | .winGet idx => Sys2Proof.Machine.execWinGet idx s
  | .winAdvance => Sys2Proof.Machine.execWinAdvance s
  | .winAdvanceby n => Sys2Proof.Machine.execWinAdvanceby n s
  | .winIsfull => Sys2Proof.Machine.execWinIsfull s
  | .winPosition => Sys2Proof.Machine.execWinPosition s
  | .demSize byte0 => Sys2Proof.Machine.execDemSize byte0 s
  | .demNext => Sys2Proof.Machine.execDemNext s
  | .frmInject ts frame => Sys2Proof.Machine.execFrmInject ts frame s
  | .frmTs => Sys2Proof.Machine.execFrmTs s
  | .frmDf => Sys2Proof.Machine.execFrmDf s
  | .frmCa => Sys2Proof.Machine.execFrmCa s
  | .frmIcao => Sys2Proof.Machine.execFrmIcao s
  | .frmMe => Sys2Proof.Machine.execFrmMe s
  | .frmTc => Sys2Proof.Machine.execFrmTc s
  | .frmBytes => Sys2Proof.Machine.execFrmBytes s
  | .msgDecode => Sys2Proof.Machine.execMsgDecode s
  | .altDecode alt12 => Sys2Proof.Machine.execAltDecode alt12 s
  | .grayDecode v n => Sys2Proof.Machine.execGrayDecode v n s
  | .csChar code => Sys2Proof.Machine.execCsChar code s
  | .cprMerge x0 y0 x1 y1 recent => Sys2Proof.Machine.execCprMerge x0 y0 x1 y1 recent s
  | .trkUpdate msg => Sys2Proof.Machine.execTrkUpdate msg s
  | .trkPurge now => Sys2Proof.Machine.execTrkPurge now s
  | .trkRead icao => Sys2Proof.Machine.execTrkRead icao s
  | .trkLast => Sys2Proof.Machine.execTrkLast s
  | .evPop => Sys2Proof.Machine.execEvPop s
  | .pipeStep => Sys2Proof.Machine.execPipeStep s
  | .blkReset => Sys2Proof.Machine.execBlkReset s
  | .blkStatus => Sys2Proof.Machine.execBlkStatus s
  | .blkConfig n => Sys2Proof.Machine.execBlkConfig n s

end Sys2Proof.Machine
end

