-- ==== Sys2Proof/Machine/Fetch.lean ====
section
/-! DEFINITION. What the step does with the host's next action (60_exceptions.md rule R940, log 1): the block fetches no
instructions (R101), so a command comes from the host as a command word. -/

namespace Sys2Proof.Machine

/-- A command word whose opcode is not in the table (R303): `ILLEGAL_COMMAND`, info the opcode; a faulted block refuses it like
any other command (R907, log 17). -/
def State.illegalCommand (s : State) (op : Byte) : State :=
  if s.faulted then s.respondRefused else s.raiseFault .illegalCommand (op.setWidth 64)

/-- The host issues a command word to a block in which no command waits (R303). -/
def fetchCommand (s : State) (command : List Byte) : Fetched :=
  match decode command with
  | .ok i => .run i s
  | .error (.illegalOpcode op) => .settle (s.illegalCommand op)
  | .error (.truncated _) => .stop .truncatedCommand
  | .error .empty => .stop .truncatedCommand

/-- A host action while no command waits (R940). -/
def fetchIdle (s : State) : HostAct → Fetched
  | .issue command => fetchCommand s command
  | .deliver bs => .settle (s.deliver bs)
  | .eos => .settle s.signalEos
  | .ioError => .settle s

/-- A host action while command `i` waits for bytes (R940): bytes or `eos` let the command proceed, an I/O error faults it
(R943), and a further command is a breach of R942. -/
def fetchWaiting (s : State) (i : Instr) : HostAct → Fetched
  | .issue _ => .stop .commandOverlap
  | .deliver bs => .run i ({ s with pending := none }.deliver bs)
  | .eos => .run i { s with pending := none }.signalEos
  | .ioError => .settle ({ s with pending := none }.raiseFault .ioError 0#64)

/-- Take the host's next action. With none, nothing happens: the block waits for the host (R950, I6). -/
def fetchNext (s : State) : Fetched :=
  match s.inbox with
  | [] => .settle s
  | act :: rest =>
    match s.pending with
    | none => fetchIdle { s with inbox := rest } act
    | some i => fetchWaiting { s with inbox := rest } i act

/-- A state with a reserved `CAUSE` is refused whatever the host does (R906, I5). -/
def fetch (s : State) : Fetched := if s.causeReserved then .refuse .reservedCause else fetchNext s

end Sys2Proof.Machine
end

