-- ==== Sys2Proof/Machine/Step.lean ====
section
/-! DEFINITION. One step: take the host's next action and do what it asks (R7, R940). -/

namespace Sys2Proof.Machine

/-- One step of the block. -/
def step (s : State) : Host.Outcome State Fault Refusal :=
  match fetch s with
  | .settle t => .next t
  | .run i t => exec i t
  | .stop r => .fault r
  | .refuse r => .refused r

/-- The host's next action is to issue the command whose first `nbits` bits are `w`, in the numbering of spec/opcode_table.json,
its further bits zero; no command waits (log 1). -/
def State.withFetchWord (s : State) (nbits w : Nat) : State :=
  { s with inbox := .issue (tableWordBytes nbits w) :: s.inbox, pending := none }

end Sys2Proof.Machine
end

