-- ==== Sys2Proof/Safety.lean ====
section
/-! DEFINITION. The terms that claims use: when the block is ready to run a command, what "answers" and "faults" mean, and what
holds in every state that the block can reach (the invariant). -/

namespace Sys2Proof.Machine

/-- The block runs commands: no fault is recorded (R907) and `CAUSE` is no reserved code (R906). -/
abbrev State.ready (s : State) : Prop := s.faulted = false ∧ s.cause.toNat < 16

/-- `i` completes in `s` with this outcome and value, and every piece of state but the response is as before. -/
def answers (s : State) (i : Instr) (o : RespOutcome) (v : Value) : Prop :=
  exec i s = .next { s with resp := some (.normal o v) }

/-- `i` takes this fault in `s`: the fault registers and the response are written, and nothing else changes (R905). -/
def faults (s : State) (i : Instr) (c : Cause) (info : BitVec 64) : Prop :=
  exec i s = .next { s with faulted := true, cause := c.code, faultInfo := info, resp := some (.fault c info) }

/-- `i` waits for bytes in `s`: it is held, and nothing else changes (R9). -/
def waits (s : State) (i : Instr) : Prop := exec i s = .next { s with pending := some i, resp := none }

/-- The commands that can wait for bytes (R906, code 14). -/
def readsStream : Instr → Bool
  | .winGet _ => true
  | .winAdvance => true
  | .winAdvanceby _ => true
  | .winIsfull => true
  | .demNext => true
  | .pipeStep => true
  | _ => false

/-- Conditioned sample `n` of a stream, straight from its two bytes (R501, R511). -/
def streamSample (src : List Byte) (n : Int) : Int :=
  if n < 0 then 0
  else ((src.getD (2 * n.toNat) 0#8).toNat : Int) + 256 * (src.getD (2 * n.toNat + 1) 0#8).toNat - 2048

/-- Every raw word that power sample `k` is made of is a 12-bit word (R502): sample indices `2k − 6` to `2k + 1`, those of
the stream. -/
def legalPower (src : List Byte) (k : Nat) : Prop :=
  ∀ n : Nat, 2 * k ≤ n + 6 → n ≤ 2 * k + 1 →
    (src.getD (2 * n) 0#8).toNat + 256 * (src.getD (2 * n + 1) 0#8).toNat ≤ 4095

/-! ## Frames and their fields, from their bytes (R240) -/

/-- The 56 bits of ME as a number: bytes 4 to 10, byte 4 the most significant. -/
def meNumber (f : Frame) : Nat := (List.range 7).foldl (fun acc k => acc * 256 + (f.bytes.getD (4 + k) 0#8).toNat) 0

/-- `ME[hi:lo]` (R30). -/
def meField (f : Frame) (hi lo : Nat) : Nat := meNumber f / 2 ^ lo % 2 ^ (hi - lo + 1)

/-- The alphabet of R712, code 0 first. -/
def alphabetTable : List Byte :=
  [0x3F#8] ++ (List.range 26).map (fun k => BitVec.ofNat 8 (0x41 + k)) ++ List.replicate 5 0x3F#8 ++ [0x20#8] ++
    List.replicate 15 0x3F#8 ++ (List.range 10).map (fun k => BitVec.ofNat 8 (0x30 + k)) ++ List.replicate 6 0x3F#8

/-- The eight characters of an identification message, the first from `ME[47:42]` (R711). -/
def callSignChars (f : Frame) : List Byte :=
  (List.range 8).map fun k => alphabetTable.getD (meField f (47 - 6 * k) (42 - 6 * k)) 0#8

/-! ## Detecting a transmission at the left edge of the window (R601 to R607) -/

/-- The preamble score at `p`. -/
def scoreAt (src : List Byte) (p : Nat) : Nat :=
  power src p + power src (p + 10) + power src (p + 35) + power src (p + 45)

/-- The low sum at `p`. -/
def lowAt (src : List Byte) (p : Nat) : Nat :=
  power src (p + 5) + power src (p + 15) + power src (p + 20) + power src (p + 25) + power src (p + 30) + power src (p + 40)

/-- The score at the position before the left edge, as `D.prev` holds it or as it is computed (R604). -/
def previousScore (s : State) : Nat :=
  match s.dprev with
  | .score v => v.toNat
  | .stale => if s.wpos.toNat = 0 ∨ s.cfg.skipPrev = .zero then 0 else scoreAt s.src (s.wpos.toNat - 1)

/-- The preamble test at the left edge (R603). -/
def preambleAt (s : State) : Prop :=
  2 * lowAt s.src s.wpos.toNat ≤ scoreAt s.src s.wpos.toNat ∧ previousScore s < scoreAt s.src s.wpos.toNat ∧
    scoreAt s.src (s.wpos.toNat + 1) < scoreAt s.src s.wpos.toNat

/-- The power samples that the preamble test at the left edge needs, in the order of R610's pseudocode (log 12): those of the
score before it if `D.prev` must be recomputed (R604), of its score, of the score after it, of the low sum. -/
def preambleOrder (s : State) : List Nat :=
  let p := s.wpos.toNat
  (match s.dprev with
    | .score _ => []
    | .stale => if p = 0 ∨ s.cfg.skipPrev = .zero then [] else [p - 1, p + 9, p + 34, p + 44]) ++
  [p, p + 10, p + 35, p + 45] ++ [p + 1, p + 11, p + 36, p + 46] ++ [p + 5, p + 15, p + 20, p + 25, p + 30, p + 40]

/-- Byte `m` of a transmission at `p` (R606, R607). -/
def byteAt (src : List Byte) (p m : Nat) : Nat :=
  ((List.range 8).map fun i =>
    if power src (p + 85 + 10 * (8 * m + i)) ≤ power src (p + 80 + 10 * (8 * m + i)) then 2 ^ (7 - i) else 0).sum

/-- The demodulator scans, its window is full, and every raw word that the preamble test needs is a 12-bit word. -/
structure scansCleanly (s : State) : Prop where
  scanning : s.dstate = .scanning
  full : s.wpos.toNat + 1200 ≤ powerCount s.src
  legal : ∀ k ∈ preambleOrder s, legalPower s.src k

/-- The first `n` comparison points of the bit slicer, in their order, are power samples of 12-bit raw words (R606). -/
def legalPoints (s : State) (n : Nat) : Prop := ∀ i, i < n → legalPower s.src (s.wpos.toNat + 80 + 5 * i)

/-- A valid frame of these bytes stands at the left edge (R609). -/
structure frameAt (s : State) (bytes : List Byte) : Prop where
  clean : scansCleanly s
  points : legalPoints s 224
  preamble : preambleAt s
  length : bytes.length = 14
  sliced : ∀ m, m < 14 → (bytes.getD m 0#8).toNat = byteAt s.src s.wpos.toNat m
  df : byteAt s.src s.wpos.toNat 0 / 8 = 17
  crc : bitcrc bytes = 0#24

/-- The frame that is found there, with its timestamp (R611). -/
def foundFrame (s : State) (bytes : List Byte) : Frame := ⟨BitVec.ofNat 64 (s.wpos.toNat * 100), bytes⟩

/-- The state after it is found (R611, R612), without the response. -/
def foundState (s : State) (bytes : List Byte) : State :=
  { s with frame := some (foundFrame s bytes), wpos := BitVec.ofNat 64 (s.wpos.toNat + 1200), dprev := .stale
           taken := max s.taken (s.wpos.toNat + 1196) }

/-! ## Exact numbers that results are compared with -/

/-- `z` is `round(q)` (R33, D25). -/
def isRound (tie : Config.RoundTie) (q : ℚ) (z : ℤ) : Prop :=
  |q - z| < 1 / 2 ∨ (|q - z| = 1 / 2 ∧ match tie with | .halfEven => Even z | .halfUp => (z : ℚ) = q + 1 / 2)

/-- `wrap` (R804). -/
def wrapTurns (q : ℚ) : ℚ := if 1 / 2 ≤ q then q - 1 else q

/-- A local coordinate as a fraction (R801). -/
def localFraction (v : BitVec 17) : ℚ := (v.toNat : ℚ) / 2 ^ 17

/-- The wrapped angle of a zone index in `zones` zones, a negative index re-indexed (R803, R804, R810, R811). -/
def zoneTurns (zones : Nat) (j : ℤ) (v : BitVec 17) : ℚ :=
  wrapTurns ((((if j < 0 then j + zones else j : ℤ) : ℚ) + localFraction v) / zones)

/-- The longitude in `zones` zones where the latitude has `nl` of them (R809, R811). -/
def longitudeTurns (nl zones : Nat) (m : ℤ) (v : BitVec 17) : ℚ :=
  if nl = 1 then wrapTurns (localFraction v) else zoneTurns zones m v

/-- The table of R807, written out from the spec and not from the model: the latitudes in turns, in `(0, 29/120)`, at which the
formula of R805 is exactly `n`, here for `n` from 59 to 32. -/
def transitionsHigh : List (Nat × ℚ) :=
  [(59, 0.029084642499913263), (58, 0.041189373246354189), (57, 0.050517398807539392), (56, 0.058414985905637065),
   (55, 0.065402902404365003), (54, 0.071747908529412652), (53, 0.07760829750338657), (52, 0.083087102381439949),
   (51, 0.088255825213363944), (50, 0.093166484341626259), (49, 0.097858322161012397), (48, 0.10236180854426519),
   (47, 0.10670116367811956), (46, 0.11089601900927478), (45, 0.11496255089611895), (44, 0.11891427811787684),
   (43, 0.1227626375394254), (42, 0.12651740896278482), (41, 0.13018703479163244), (40, 0.13377886466935148),
   (39, 0.13729934553488066), (38, 0.1407541712653846), (37, 0.14414840192135517), (36, 0.14748655979988933),
   (35, 0.15077270756313664), (34, 0.15401051234708501), (33, 0.15720329878349819), (32, 0.16035409316294798)]

/-- The table of R807, for `n` from 31 to 3. -/
def transitionsLow : List (Nat × ℚ) :=
  [(31, 0.16346566044856865), (30, 0.16654053546372352), (29, 0.16958104928462119), (28, 0.17258935164473174),
   (27, 0.17556742998283162), (26, 0.17851712562687362), (25, 0.1814401474911694), (24, 0.18433808356618411),
   (23, 0.18721241039124099), (22, 0.1900645006134261), (21, 0.19289562864288977), (20, 0.19570697430521131),
   (19, 0.19849962425080528), (18, 0.20127457068691533), (17, 0.20403270671299642), (16, 0.20677481710347619),
   (15, 0.20950156268481563), (14, 0.21221345529984648), (13, 0.21491081837022757), (12, 0.21759372452563201),
   (11, 0.2202618951515814), (10, 0.22291453370223654), (9, 0.22555003747977642), (8, 0.22816547168085025),
   (7, 0.23075554013110601), (6, 0.23331037674946018), (5, 0.23581017196394686), (4, 0.23820948947067832),
   (3, 0.24037602770866948)]

/-- The table of R807 without φ_2 = 29/120. -/
def transitions : List (Nat × ℚ) := transitionsHigh ++ transitionsLow

/-- `NL` by the table of R807. -/
def zonesAt (o : Config.Options) (lat : ℚ) : Nat :=
  let t : ℚ := if |lat| ≤ 1 / 4 then |lat| else 1 / 2 - |lat|
  if t = 0 then (match o.nlEquator with | .n60 => 60 | .n59 => 59)
  else if t = 29 / 120 then (match o.nl87 with | .n2 => 2 | .n1 => 1)
  else if 29 / 120 < t then 1
  else 2 + transitions.countP fun e => decide (t < e.2)

/-- A binary64 pattern that is no infinity and no NaN. -/
def f64Finite (b : F64) : Prop := b.toNat / 2 ^ 52 % 2 ^ 11 ≠ 2047

/-- The value of a finite binary64 pattern (IEEE 754). -/
def f64Value (b : F64) : ℚ :=
  let e : Nat := b.toNat / 2 ^ 52 % 2 ^ 11
  let m : Nat := b.toNat % 2 ^ 52
  (if b.msb then -1 else 1 : ℚ) *
    (if e = 0 then (m : ℚ) * (2 : ℚ) ^ (-1074 : ℤ) else ((2 ^ 52 + m : ℕ) : ℚ) * (2 : ℚ) ^ ((e : ℤ) - 1075))

/-- `b` is `f64(x)`: no finite pattern of another value is nearer to `x`, and one that is as near means that the last bit of
`b` is 0 (R33). -/
def isF64Of (b : F64) (x : ℝ) : Prop :=
  f64Finite b ∧ ∀ c, f64Finite c → f64Value c ≠ f64Value b →
    |(f64Value b : ℝ) - x| < |(f64Value c : ℝ) - x| ∨
      (|(f64Value b : ℝ) - x| = |(f64Value c : ℝ) - x| ∧ b.getLsbD 0 = false)

/-! ## Which commands do what -/

/-- The opcodes of R302. -/
def tableOpcodes : List Nat :=
  [0x01, 0x02, 0x03, 0x10, 0x11, 0x12, 0x20, 0x21, 0x30, 0x31, 0x32, 0x33, 0x34, 0x40, 0x41, 0x50, 0x51, 0x52, 0x53, 0x54,
   0x55, 0x56, 0x57, 0x60, 0x61, 0x62, 0x63, 0x70, 0x80, 0x81, 0x82, 0x83, 0x84, 0x90, 0xF0, 0xF1, 0xF2]

/-- R906, "raised by": the commands that can raise a fault when they run. -/
def raises : Cause → Instr → Bool
  | .badOperand, .trkUpdate _ => true
  | .badOperand, .blkConfig _ => true
  | .badOperand, .altDecode _ => true
  | .badOperand, .grayDecode _ _ => true
  | .badOperand, .csChar _ => true
  | .bfSize, .bfExtract _ _ _ => true
  | .bfRange, .bfExtract _ _ _ => true
  | .bfIndex, .bfTestbit _ _ => true
  | .bsRange, .bsRange _ _ _ => true
  | .bsWidth, .bsRange _ _ _ => true
  | .sampleRange, .scCondition _ _ => true
  | .sampleRange, .pePower _ _ _ _ _ _ _ _ => true
  | .sampleRange, .winGet _ => true
  | .sampleRange, .winAdvance => true
  | .sampleRange, .winAdvanceby _ => true
  | .sampleRange, .demNext => true
  | .sampleRange, .pipeStep => true
  | .winIndex, .winGet _ => true
  | .winPastEnd, .winGet _ => true
  | .winPastEnd, .winAdvance => true
  | .winPastEnd, .winAdvanceby _ => true
  | .tsOverflow, .demNext => true
  | .tsOverflow, .pipeStep => true
  | .tsNegative, .frmInject _ _ => true
  | .tsNegative, .trkUpdate _ => true
  | .tsNegative, .trkPurge _ => true
  | .badField, .trkUpdate _ => true
  | .noFrame, .frmTs => true
  | .noFrame, .frmDf => true
  | .noFrame, .frmCa => true
  | .noFrame, .frmIcao => true
  | .noFrame, .frmMe => true
  | .noFrame, .frmTc => true
  | .noFrame, .frmBytes => true
  | .noFrame, .msgDecode => true
  | _, _ => false

/-- Commands that write the window's position and `D.prev` (R558, R553, R610). -/
def movesWindow : Instr → Bool
  | .winAdvance => true
  | .winAdvanceby _ => true
  | .demNext => true
  | .pipeStep => true
  | .blkReset => true
  | _ => false

/-- Commands that write `D.state` (R614). -/
def writesDState : Instr → Bool
  | .demNext => true
  | .pipeStep => true
  | .blkReset => true
  | _ => false

/-- Commands that write the frame register (R140). -/
def writesFrame : Instr → Bool
  | .demNext => true
  | .frmInject _ _ => true
  | .pipeStep => true
  | .blkReset => true
  | _ => false

/-- Commands that write the tracker's table (R850, R860, R890). -/
def writesTable : Instr → Bool
  | .trkUpdate _ => true
  | .trkPurge _ => true
  | .pipeStep => true
  | .blkReset => true
  | _ => false

/-- `n` is the lowest sample of power sample `k` whose raw word is above 4095, and `u` is that word (R502, R911 point 4). -/
def firstIllegal (src : List Byte) (k n u : Nat) : Prop :=
  2 * k ≤ n + 6 ∧ n ≤ 2 * k + 1 ∧ u = (src.getD (2 * n) 0#8).toNat + 256 * (src.getD (2 * n + 1) 0#8).toNat ∧ 4095 < u ∧
    ∀ m, 2 * k ≤ m + 6 → m < n → (src.getD (2 * m) 0#8).toNat + 256 * (src.getD (2 * m + 1) 0#8).toNat ≤ 4095

/-! ## The invariant -/

/-- R140, R141, R650: what holds of the frame in `F`. -/
structure frameOk (f : Frame) : Prop where
  ts_small : f.ts.toNat < 2 ^ 63
  length : f.bytes.length = 14
  df : (f.bytes.getD 0 0#8).toNat / 8 = 17
  crc : crcBytes f.bytes = 0#24

/-- R145, R151: what holds of a position message in a slot. -/
structure slotOk (a : Icao) (par : Parity) (p : PositionMsg) : Prop where
  ts_small : p.ts.toNat < 2 ^ 63
  icao : p.icao = a
  parity : p.parity = par
  altitude : f64IsNaN p.altitudeM = false

/-- R145, R151, R814: what holds of a tracker entry. -/
structure entryOk (a : Icao) (e : AircraftState) : Prop where
  lastSeen : e.lastSeenNs.toNat < 2 ^ 63
  callSign : ∀ c, e.callSign = some c → c.length ≤ 8 ∧ c.all callSignChar = true
  position : ∀ p, e.position = some p → p.latT32.toInt.natAbs ≤ 2 ^ 30
  speed : ∀ v, e.speedMps = some v → f64NonNeg v = true
  track : ∀ v, e.trackRad = some v → f64IsAngle v = true
  slotEven : ∀ p, e.slotEven = some p → slotOk a .even p
  slotOdd : ∀ p, e.slotOdd = some p → slotOk a .odd p

/-- What holds in every reachable state. -/
structure Inv (s : State) : Prop where
  /-- R110: `CAUSE` and `FAULT_INFO` are 0 while no fault is recorded. -/
  noFault : s.faulted = false → s.cause = 0#8 ∧ s.faultInfo = 0#64
  /-- R906: a recorded fault has one of the 15 causes. -/
  causeLegal : s.faulted = true → 1 ≤ s.cause.toNat ∧ s.cause.toNat ≤ 15
  /-- R140, R141: the frame register holds a valid frame or none. -/
  frame : ∀ f, s.frame = some f → frameOk f
  /-- R150: at most one entry per address, in rising order. -/
  table : tableWf s.table
  /-- R151: every entry is well formed. -/
  entries : ∀ e ∈ s.table, entryOk e.1 e.2
  /-- R861: before the first message the table is empty. -/
  lastNone : s.lastNs = none → s.table = []
  /-- R553, R612: the left edge stands at `NP` at most. -/
  position : s.wpos.toNat ≤ powerCount s.src
  /-- R614: `D.state = done` implies `Src.eos = 1`. -/
  doneEos : s.dstate = .done → s.eos = true
  /-- R9, R940: only a command that reads the stream waits, before `eos`, in a block without a fault. -/
  waiting : ∀ i, s.pending = some i → readsStream i = true ∧ s.eos = false ∧ s.faulted = false

/-- A safe state: no command was used outside its preconditions (R900, R905). -/
def safeState (s : State) : Prop := s.faulted = false

end Sys2Proof.Machine
end

