-- ==== Sys2Proof/Certificates/Slice0/Obligations.lean ====
section
/-! DEFINITION. What is claimed of the machine, one definition per statement, in the order of the spec's files. Nothing is
proved here. `answers`, `faults` and `waits` (Safety.lean) are equations on the whole next state, so a claim that uses them
says that nothing else changes. -/

open Sys2Proof Sys2Proof.Machine

/-! ## Reset, the step and the host -/

/-- 10_state.md R165 and 70_reset_and_hazards.md R950: every piece of state at reset. `CFG_OPTIONS` holds the defaults with the
two OPEN parameters, whatever they are. -/
def Obligations.ResetState : Prop :=
  State.reset.faultWord = 0#16 ∧ State.reset.faultInfo = 0#64 ∧ State.reset.srcLen = 0 ∧ State.reset.eos = false ∧
  State.reset.hist = List.replicate 8 0#12 ∧ State.reset.wpos = 0#64 ∧ State.reset.dprev = .score 0#32 ∧
  State.reset.dstate = .scanning ∧ State.reset.frame = none ∧ State.reset.table = [] ∧ State.reset.lastNs = none ∧
  State.reset.ev = [] ∧ State.reset.cfg = Config.optionsWith Config.nlEquator Config.nl87 ∧
  [0, 1, 2, 3, 4, 5, 6, 7, 8, 9, 10, 11].map (cfgRegister State.reset.cfg) =
    [0xFFF409#64, 1200#64, 14#64, 17#64, 80#64, 10#64, 5#64, 1200#64, 100#64, 10000000000#64, 60000000000#64, 2048#64].map some ∧
  (∀ b : Byte, crcEntry b = bitcrc [b])

/-- A command word that the host issues, and that decodes, is the command that the step runs (R7, R303); the step only takes it
from the host's list (log 1). -/
def Obligations.StepRunsDecodedCommand : Prop :=
  ∀ (s : State) (command : List Byte) (rest : List HostAct) (i : Instr),
    s.pending = none → s.inbox = .issue command :: rest → decode command = .ok i →
    step s = exec i { s with inbox := rest }

/-- 30_encoding.md R300, R302, R304: words written out from the command table, at least one for each operand shape: no operand, 8
bits, 16 bits, 24 bits, 32 bits, 64 bits, (64, 8, 8), (64, 8), (8, 8), (16, 8), a `seq` alone, a `seq` with two bytes, eight fields of
16 bits, a record of `FRM.INJECT`, the packed fields of `CPR.MERGE`, and the three messages and a bad tag of `TRK.UPDATE`. -/
def Obligations.WordsDecodeAsTheTableSays : Prop :=
  decode [0x01#8, 0x8D#8, 0x48#8, 0x40#8, 0xD6#8, 0x20#8, 0x2C#8, 0xC3#8, 0x71#8, 59#8, 5#8] =
    .ok (.bfExtract 0x8D4840D6202CC371#64 59#8 5#8) ∧
  decode [0x03#8, 3#8, 0xAA#8, 0xBB#8, 0xCC#8, 1#8, 2#8] = .ok (.bsRange [0xAA#8, 0xBB#8, 0xCC#8] 1#8 2#8) ∧
  decode [0x32#8, 0x00#8, 0x01#8, 0x00#8, 0x02#8] = .ok (.winAdvanceby 65538#32) ∧
  decode [0x41#8] = .ok .demNext ∧
  decode [0x62#8, 0x00#8, 0x80#8, 0x09#8] = .ok (.grayDecode 128#16 9#8) ∧
  decode [0x70#8, 0x00#8, 0x00#8, 0x80#8, 0x00#8, 0xFF#8, 0xFF#8, 0xE0#8, 0x00#8, 0x28#8] =
    .ok (.cprMerge 1#17 3#17 0x1FFFF#17 2#17 1#1) ∧
  decode [0x82#8, 0xA1#8, 0xB2#8, 0xC3#8] = .ok (.trkRead 0xA1B2C3#24) ∧
  decode [0xF2#8, 12#8] = .ok (.blkConfig 12#8) ∧
  decode [0x30#8, 0x04#8, 0xAF#8] = .ok (.winGet 1199#16) ∧
  decode [0x81#8, 0x00#8, 0x00#8, 0x00#8, 0x0D#8, 0xF8#8, 0x47#8, 0x58#8, 0x05#8] = .ok (.trkPurge 60000000005#64) ∧
  decode [0x02#8, 0x80#8, 0x00#8, 0x00#8, 0x00#8, 0x00#8, 0x00#8, 0x00#8, 0x01#8, 63#8] =
    .ok (.bfTestbit 0x8000000000000001#64 63#8) ∧
  decode [0x20#8, 0x64#8, 0x08#8] = .ok (.scCondition 0x64#8 0x08#8) ∧
  decode [0x10#8, 2#8, 0x8D#8, 0x48#8] = .ok (.crcCompute [0x8D#8, 0x48#8]) ∧
  decode [0x21#8, 0x00#8, 0x01#8, 0x00#8, 0x02#8, 0x00#8, 0x03#8, 0x00#8, 0x04#8, 0xFF#8, 0xFB#8, 0x00#8, 0x06#8, 0x00#8, 0x07#8,
      0xF8#8, 0x00#8] = .ok (.pePower 1#16 2#16 3#16 4#16 0xFFFB#16 6#16 7#16 0xF800#16) ∧
  decode [0x50#8, 0x00#8, 0x00#8, 0x00#8, 0x00#8, 0x3B#8, 0x9A#8, 0xCA#8, 0x00#8, 0x8D#8, 0x48#8, 0x40#8, 0xD6#8, 0x20#8, 0x2C#8,
      0xC3#8, 0x71#8, 0xC3#8, 0x2C#8, 0xE0#8, 0x57#8, 0x60#8, 0x98#8] =
    .ok (.frmInject 1000000000#64 [0x8D#8, 0x48#8, 0x40#8, 0xD6#8, 0x20#8, 0x2C#8, 0xC3#8, 0x71#8, 0xC3#8, 0x2C#8, 0xE0#8,
      0x57#8, 0x60#8, 0x98#8]) ∧
  decode [0x80#8, 1#8, 0x00#8, 0x00#8, 0x00#8, 0x00#8, 0x00#8, 0x00#8, 0x00#8, 7#8, 0xA1#8, 0xB2#8, 0xC3#8, 80#8, 2#8, 0x4E#8,
      0x31#8] = .ok (.trkUpdate (.ident 7#64 0xA1B2C3#24 80#8 [0x4E#8, 0x31#8])) ∧
  decode [0x80#8, 2#8, 0x00#8, 0x00#8, 0x00#8, 0x00#8, 0x00#8, 0x00#8, 0x00#8, 7#8, 0xA1#8, 0xB2#8, 0xC3#8, 0x40#8, 0xC6#8, 0x9F#8,
      0x33#8, 0x33#8, 0x33#8, 0x33#8, 0x33#8, 1#8, 0x80#8, 0x00#8, 0xC0#8, 0x00#8, 0x80#8] =
    .ok (.trkUpdate (.position 7#64 0xA1B2C3#24 0x40C69F3333333333#64 1#8 0x10001#17 0x10002#17)) ∧
  decode [0x80#8, 3#8, 0x00#8, 0x00#8, 0x00#8, 0x00#8, 0x00#8, 0x00#8, 0x00#8, 7#8, 0xA1#8, 0xB2#8, 0xC3#8, 0x40#8, 0x59#8, 0x00#8,
      0x00#8, 0x00#8, 0x00#8, 0x00#8, 0x00#8, 0x3F#8, 0xF0#8, 0x00#8, 0x00#8, 0x00#8, 0x00#8, 0x00#8, 0x00#8] =
    .ok (.trkUpdate (.velocity 7#64 0xA1B2C3#24 0x4059000000000000#64 0x3FF0000000000000#64)) ∧
  decode [0x80#8, 4#8] = .ok (.trkUpdate (.badTag 4#8))

/-- 30_encoding.md R300, R302, R304: decoding the word of a well-formed command gives the command back. That bytes after
the word, and the zero padding to a whole byte, change nothing is the model's choice (log 5). -/
def Obligations.DecodeOfEncodeIsTheCommand : Prop :=
  ∀ (i : Instr) (rest : List Byte), i.wellFormed = true → decode (encode i ++ rest) = .ok i

/-- 30_encoding.md R303: an opcode outside the table faults with `ILLEGAL_COMMAND`, info the opcode, whatever bytes follow it, and
an opcode of the table never does. -/
def Obligations.IllegalOpcodeFaults : Prop :=
  (∀ (s : State) (op : Byte) (bs : List Byte) (rest : List HostAct),
    s.ready → s.pending = none → s.inbox = .issue (op :: bs) :: rest → op.toNat ∉ tableOpcodes →
    step s = .next { s with
      inbox := rest, faulted := true, cause := 1#8, faultInfo := op.setWidth 64
      resp := some (.fault .illegalCommand (op.setWidth 64)) }) ∧
  (∀ (op : Byte) (bs : List Byte), op.toNat ∈ tableOpcodes → decode (op :: bs) ≠ .error (.illegalOpcode op))

/-- 60_exceptions.md R940, R943 (log 1, log 3, log 4): what each host action does while no command waits, and a further command
while one waits; bytes and end-of-stream lift a wait, and the command goes on from the state it waited in; an I/O error faults
the waiting command with `IO_ERROR`, info 0, and nothing else changes. That bytes and end-of-stream take effect in a faulted
block too is log 18. The block has no reserved `CAUSE`. -/
def Obligations.HostActions : Prop :=
  (∀ (s : State) (rest : List HostAct) (bs : List Byte), s.cause.toNat < 16 →
    (s.pending = none → s.inbox = .deliver bs :: rest →
      step s = .next { s with inbox := rest, src := if s.eos then s.src else s.src ++ bs }) ∧
    (s.pending = none → s.inbox = .eos :: rest → step s = .next { s with inbox := rest, eos := true }) ∧
    (s.pending = none → s.inbox = .ioError :: rest → step s = .next { s with inbox := rest }) ∧
    (s.inbox = [] → step s = .next s) ∧
    (∀ i, s.pending = some i → s.inbox = .issue bs :: rest → step s = .fault .commandOverlap)) ∧
  (∀ (s : State) (i : Instr) (rest : List HostAct) (bs : List Byte), s.cause.toNat < 16 → s.pending = some i →
    (s.inbox = .deliver bs :: rest →
      step s = exec i { s with pending := none, inbox := rest, src := if s.eos then s.src else s.src ++ bs }) ∧
    (s.inbox = .eos :: rest → step s = exec i { s with pending := none, inbox := rest, eos := true })) ∧
  (∀ (s : State) (i : Instr) (rest : List HostAct), s.cause.toNat < 16 → s.pending = some i → s.inbox = .ioError :: rest →
    step s = .next { s with
      inbox := rest, pending := none, faulted := true, cause := 14#8, faultInfo := 0#64
      resp := some (.fault .ioError 0#64) })

/-- 00_scope.md R9, 70_reset_and_hazards.md R972: a command waits only for bytes that may still come, so after end-of-stream
every command answers, and a command that reads no stream always does. -/
def Obligations.CommandsAnswerOnceTheStreamHasEnded : Prop :=
  ∀ (i : Instr) (s : State), s.cause.toNat < 16 → s.pending = none → (s.eos = true ∨ readsStream i = false) →
    ∃ t r, exec i s = .next t ∧ t.resp = some r ∧ t.pending = none

/-- 43_window.md R551, R557, R559: bytes that are delivered later change no answer: the same command on a longer stream gives the
same response and the same next state. -/
def Obligations.LaterBytesChangeNoAnswer : Prop :=
  ∀ (i : Instr) (s t : State) (bs : List Byte), i ≠ .blkReset → s.eos = false →
    exec i s = .next t → t.resp ≠ none →
    exec i { s with src := s.src ++ bs } = .next { t with src := t.src ++ bs }

/-! ## Faults -/

/-- 60_exceptions.md R905: a command that faults leaves the state of before it, with the fault registers written. -/
def Obligations.FaultsArePrecise : Prop :=
  ∀ (i : Instr) (s t : State) (c : Cause) (info : BitVec 64),
    exec i s = .next t → t.resp = some (.fault c info) →
    t = { s with faulted := true, cause := c.code, faultInfo := info, resp := some (.fault c info) }

/-- 60_exceptions.md R906: each cause comes only from the commands its table row names, so `BLK.STATUS` and `BLK.RESET` never
fault (R908), and the commands of a decoded frame raise no field fault. The exception is the model's (log 14): a command that would
move the left edge past 2^64 − 1 raises `TS_OVERFLOW` with that position as its information. -/
def Obligations.OnlyTheListedCommandsRaiseACause : Prop :=
  ∀ (i : Instr) (s t : State) (c : Cause) (info : BitVec 64),
    exec i s = .next t → t.resp = some (.fault c info) →
    raises c i = true ∨
      (c = .tsOverflow ∧ info = BitVec.allOnes 64 ∧ 2 ^ 64 ≤ powerCount s.src ∧ (i = .winAdvance ∨ ∃ n, i = .winAdvanceby n))

/-- 60_exceptions.md R907: a faulted block refuses every command but `BLK.STATUS` and `BLK.RESET`, and changes nothing. R906: a
state with a reserved `CAUSE` is refused, whatever command runs and whatever the host does (the model's stop, log 7). -/
def Obligations.FaultedBlockRefusesCommands : Prop :=
  (∀ (i : Instr) (s : State), s.faulted = true → s.cause.toNat < 16 → i ≠ .blkStatus → i ≠ .blkReset →
    exec i s = .next { s with resp := some .refused }) ∧
  (∀ (i : Instr) (s : State), 16 ≤ s.cause.toNat → exec i s = .refused .reservedCause) ∧
  (∀ s : State, 16 ≤ s.cause.toNat → step s = .refused .reservedCause)

/-- 60_exceptions.md R907, R909: however long the block runs, without a `BLK.RESET` from the host the first fault stays recorded
and the state of the pipeline stays as it was. The host's list is log 1; that an illegal opcode is refused here like any other
command is log 17. -/
def Obligations.TheFirstFaultStaysUntilReset : Prop :=
  ∀ (k : Nat) (s t : State), s.faulted = true → s.cause.toNat < 16 → s.pending = none →
    (∀ command, HostAct.issue command ∈ s.inbox → decode command ≠ .ok .blkReset) →
    Host.Core.run Sys2Proof.core k s = .next t →
    t.faulted = true ∧ t.cause = s.cause ∧ t.faultInfo = s.faultInfo ∧ t.wpos = s.wpos ∧ t.dprev = s.dprev ∧
      t.dstate = s.dstate ∧ t.frame = s.frame ∧ t.table = s.table ∧ t.lastNs = s.lastNs ∧ t.ev = s.ev ∧
      t.taken = s.taken ∧ t.cfg = s.cfg ∧ t.pending = none

/-- 60_exceptions.md R912, 10_state.md R110: `BLK.STATUS` reads `FAULT` and `FAULT_INFO`, faulted or not. 70_reset_and_hazards.md
R952: `BLK.RESET` gives the state after reset, faulted or not; the machine keeps its options and the host its list (log 8,
log 1), and the response carries no value (log 19). -/
def Obligations.StatusAndResetRunWhenFaulted : Prop :=
  (∀ s : State, s.cause.toNat < 16 →
    ∃ w : BitVec 16, answers s .blkStatus .ok (.status w s.faultInfo) ∧
      w.getLsbD 0 = s.faulted ∧ w.getLsbD 1 = s.eos ∧ w.extractLsb' 2 6 = 0#6 ∧ w.extractLsb' 8 8 = s.cause) ∧
  (∀ s : State, s.cause.toNat < 16 →
    exec .blkReset s = .next { State.reset with cfg := s.cfg, inbox := s.inbox, resp := some (.normal .ok .empty) })

/-- 60_exceptions.md R913, 10_state.md R115: the configuration registers, and the fault of any other number. The two OPEN options
stand for themselves. -/
def Obligations.ConfigReadsTheConstants : Prop :=
  ∀ (s : State) (e : Config.NlEquator) (k : Config.Nl87), s.ready → s.cfg = Config.optionsWith e k →
    (∀ (n : BitVec 8) (v : BitVec 64),
      [0xFFF409#64, 1200#64, 14#64, 17#64, 80#64, 10#64, 5#64, 1200#64, 100#64, 10000000000#64, 60000000000#64, 2048#64,
        BitVec.ofNat 64 (0x88 + (match e with | .n60 => 0 | .n59 => 512) + (match k with | .n2 => 0 | .n1 => 1024))][n.toNat]?
          = some v → answers s (.blkConfig n) .ok (.bits 64 v)) ∧
    (∀ n : BitVec 8, 12 < n.toNat → faults s (.blkConfig n) .badOperand (n.setWidth 64))

/-! ## Which command changes what -/

/-- 10_state.md R100, R140, R150, 43_window.md R558, 44_demodulator.md R614, 60_exceptions.md R905: each piece of state is changed
only by the commands that the spec names for it: the fault registers by a fault and by `BLK.RESET`, the stream and its end by
`BLK.RESET` alone. The mark of the samples computed is the model's (log 6). That no command, `BLK.RESET` included, changes the
options or the host's list is the model's choice (log 8, log 1). -/
def Obligations.EachStateIsChangedOnlyByItsCommands : Prop :=
  ∀ (i : Instr) (s t : State), exec i s = .next t →
    (i ≠ .blkReset → (∀ c info, t.resp ≠ some (.fault c info)) →
      t.faulted = s.faulted ∧ t.cause = s.cause ∧ t.faultInfo = s.faultInfo) ∧
    (movesWindow i = false → t.wpos = s.wpos ∧ t.dprev = s.dprev) ∧
    (writesDState i = false → t.dstate = s.dstate) ∧
    (writesFrame i = false → t.frame = s.frame) ∧
    (writesTable i = false → t.table = s.table) ∧
    (writesTable i = false ∨ (∃ now, i = .trkPurge now) → i ≠ .blkReset → t.lastNs = s.lastNs) ∧
    (writesTable i = false → i ≠ .evPop → t.ev = s.ev) ∧
    (readsStream i = false → i ≠ .blkReset → t.taken = s.taken ∧ t.pending = s.pending) ∧
    (i ≠ .blkReset → t.src = s.src ∧ t.eos = s.eos) ∧ t.cfg = s.cfg ∧ t.inbox = s.inbox

/-- Every invariant of Safety.lean (43_window.md R553; 10_state.md R110, R140, R141, R145, R150, R151; 44_demodulator.md R612, R614; 48_cpr.md
R814; 60_exceptions.md R906) survives every step, from any state that has it. -/
def Obligations.EveryStepKeepsTheInvariant : Prop :=
  ∀ s t : State, Inv s → step s = .next t → Inv t

/-- The invariant holds at reset. -/
def Obligations.ResetMeetsTheInvariant : Prop := Inv State.reset

/-! ## Bit fields and byte sequences -/

/-- 40_bitfield.md R401, R402, R403, R405, R406: `BF.EXTRACT`, its two faults in their order, its result over the integers; the
result does not depend on bits outside the range, and extraction undoes a shift to the range. `BF.TESTBIT` reads one bit, the
same as `BF.EXTRACT` of size 1. -/
def Obligations.ExtractAndTestBitReadFields : Prop :=
  ((∀ (s : State) (value : BitVec 64) (start size : BitVec 8), s.ready →
    (¬(0 < size.toNat ∧ size.toNat < 32) →
      faults s (.bfExtract value start size) .bfSize (BitVec.ofNat 64 (start.toNat * 256 + size.toNat))) ∧
    (0 < size.toNat → size.toNat < 32 → 64 < start.toNat + size.toNat →
      faults s (.bfExtract value start size) .bfRange (BitVec.ofNat 64 (start.toNat * 256 + size.toNat))) ∧
    (0 < size.toNat → size.toNat < 32 → start.toNat + size.toNat ≤ 64 →
      answers s (.bfExtract value start size) .ok
        (.bits 32 (BitVec.ofNat 32 (value.toNat / 2 ^ start.toNat % 2 ^ size.toNat))))) ∧
  (∀ (s : State) (start size : BitVec 8), s.ready → 0 < size.toNat → size.toNat < 32 → start.toNat + size.toNat ≤ 64 →
    (∀ v w : BitVec 64, (∀ k, k < size.toNat → v.getLsbD (start.toNat + k) = w.getLsbD (start.toNat + k)) →
      exec (.bfExtract v start size) s = exec (.bfExtract w start size) s) ∧
    (∀ u : BitVec 64, u.toNat < 2 ^ size.toNat →
      answers s (.bfExtract (u <<< start.toNat) start size) .ok (.bits 32 (u.setWidth 32))))) ∧
  (∀ (s : State) (value : BitVec 64) (index : BitVec 8), s.ready →
    (64 ≤ index.toNat → faults s (.bfTestbit value index) .bfIndex (index.setWidth 64)) ∧
    (index.toNat < 64 →
      answers s (.bfTestbit value index) .ok (.bits 1 (BitVec.ofBool (value.getLsbD index.toNat))) ∧
      answers s (.bfExtract value index 1#8) .ok (.bits 32 ((BitVec.ofBool (value.getLsbD index.toNat)).setWidth 32))))

/-- 40_bitfield.md R410: `BS.RANGE`, its two faults in their order, and the big-endian integer it returns. -/
def Obligations.RangeReadsABigEndianInteger : Prop :=
  ∀ (s : State) (seq : List Byte) (lo hi : BitVec 8), s.ready → seq.length ≤ 255 →
    (¬(lo.toNat ≤ hi.toNat ∧ hi.toNat ≤ seq.length) →
      faults s (.bsRange seq lo hi) .bsRange (BitVec.ofNat 64 (lo.toNat * 65536 + hi.toNat * 256 + seq.length))) ∧
    (lo.toNat ≤ hi.toNat → hi.toNat ≤ seq.length → 8 < hi.toNat - lo.toNat →
      faults s (.bsRange seq lo hi) .bsWidth (BitVec.ofNat 64 (lo.toNat * 65536 + hi.toNat * 256 + seq.length))) ∧
    (lo.toNat ≤ hi.toNat → hi.toNat ≤ seq.length → hi.toNat - lo.toNat ≤ 8 →
      answers s (.bsRange seq lo hi) .ok
        (.bits 64 (BitVec.ofNat 64 ((List.range (hi.toNat - lo.toNat)).foldl
          (fun r k => r * 256 + (seq.getD (lo.toNat + k) 0#8).toNat) 0))))

/-! ## CRC -/

/-- 41_crc24.md R452, R454: `CRC.TABLE` reads the bitwise CRC of its index, and the table is linear. -/
def Obligations.TableHoldsTheBitwiseCrc : Prop :=
  ∀ (s : State) (i j : BitVec 8), s.ready →
    answers s (.crcTable i) .ok (.bits 24 (bitcrc [i])) ∧
    answers s (.crcTable (i ^^^ j)) .ok (.bits 24 (bitcrc [i] ^^^ bitcrc [j]))

/-- 41_crc24.md R451, R455, R460: `CRC.COMPUTE`, byte by byte with the table, gives the CRC bit by bit against the generator, for
byte sequences of any length, and `CRC.CHECK` answers 1 exactly when it is 0. -/
def Obligations.ComputeAndCheckUseTheBitwiseCrc : Prop :=
  (∀ (s : State) (seq : List Byte), s.ready → answers s (.crcCompute seq) .ok (.bits 24 (bitcrc seq))) ∧
  (∀ (s : State) (seq : List Byte), s.ready →
    (bitcrc seq = 0#24 → answers s (.crcCheck seq) .ok (.bits 1 1#1)) ∧
    (bitcrc seq ≠ 0#24 → answers s (.crcCheck seq) .ok (.bits 1 0#1)))

/-- 41_crc24.md R456, R461, R462: a byte sequence followed by three check bytes has CRC 0 exactly when the check bytes are its CRC,
and flipping one bit of a sequence changes its CRC, so no valid frame stays valid. -/
def Obligations.CrcSealsFramesAndSeesBitErrors : Prop :=
  (∀ (data : List Byte) (check : BitVec 24),
    crcBytes (data ++ [check.extractLsb' 16 8, check.extractLsb' 8 8, check.extractLsb' 0 8]) = 0#24 ↔ check = crcBytes data) ∧
  (∀ (bs : List Byte) (k j : Nat), k < bs.length → j < 8 →
    crcBytes (bs.set k (bs.getD k 0#8 ^^^ (1#8 <<< j))) ≠ crcBytes bs)

/-! ## Samples and power -/

/-- 42_conditioning_power.md R503: `SC.CONDITION`. -/
def Obligations.ConditionCentresASample : Prop :=
  ∀ (s : State) (lo hi : BitVec 8), s.ready →
    (lo.toNat + 256 * hi.toNat ≤ 4095 → ∃ v : BitVec 12,
      v.toInt = (lo.toNat : Int) + 256 * hi.toNat - 2048 ∧ answers s (.scCondition lo hi) .ok (.bits 12 v)) ∧
    (4095 < lo.toNat + 256 * hi.toNat →
      faults s (.scCondition lo hi) .sampleRange (BitVec.ofNat 64 (lo.toNat + 256 * hi.toNat)))

/-- 42_conditioning_power.md R512, R513, R514: `PE.POWER`, the bound of its result, and its fault on the lowest bad operand;
reversing the order of eight legal samples changes nothing. -/
def Obligations.PowerOfEightOperands : Prop :=
  (∀ (s : State) (s0 s1 s2 s3 s4 s5 s6 s7 : BitVec 16), s.ready →
    ((∀ v ∈ [s0, s1, s2, s3, s4, s5, s6, s7], -2048 ≤ v.toInt ∧ v.toInt ≤ 2047) →
      ∃ p : BitVec 32,
        (p.toNat : Int) = (s1.toInt - s3.toInt + s5.toInt - s7.toInt) ^ 2 + (s0.toInt - s2.toInt + s4.toInt - s6.toInt) ^ 2 ∧
        p.toNat ≤ 134152200 ∧ answers s (.pePower s0 s1 s2 s3 s4 s5 s6 s7) .ok (.bits 32 p)) ∧
    (∀ (i : Nat) (v : BitVec 16), [s0, s1, s2, s3, s4, s5, s6, s7][i]? = some v → ¬(-2048 ≤ v.toInt ∧ v.toInt ≤ 2047) →
      (∀ w ∈ [s0, s1, s2, s3, s4, s5, s6, s7].take i, -2048 ≤ w.toInt ∧ w.toInt ≤ 2047) →
      faults s (.pePower s0 s1 s2 s3 s4 s5 s6 s7) .sampleRange (BitVec.ofNat 64 (i * 65536 + v.toNat)))) ∧
  (∀ (s : State) (s0 s1 s2 s3 s4 s5 s6 s7 : BitVec 16), s.ready →
    (∀ v ∈ [s0, s1, s2, s3, s4, s5, s6, s7], -2048 ≤ v.toInt ∧ v.toInt ≤ 2047) →
    exec (.pePower s0 s1 s2 s3 s4 s5 s6 s7) s = exec (.pePower s7 s6 s5 s4 s3 s2 s1 s0) s)

/-- 42_conditioning_power.md R501, R510, R511, R514: power sample `k` of a stream, from its bytes, and its bound; and R516: how many
power samples the bytes make. -/
def Obligations.PowerOfTheStream : Prop :=
  ∀ (src : List Byte) (k : Nat),
    (power src k : Int) =
      (streamSample src (2 * k - 5) - streamSample src (2 * k - 3) + streamSample src (2 * k - 1) -
        streamSample src (2 * k + 1)) ^ 2 +
      (streamSample src (2 * k - 6) - streamSample src (2 * k - 4) + streamSample src (2 * k - 2) -
        streamSample src (2 * k)) ^ 2 ∧
    (legalPower src k → power src k ≤ 134152200) ∧
    powerCount src = src.length / 4

/-! ## The window -/

/-- 43_window.md R552, R557, 42_conditioning_power.md R502: `WIN.GET` in every case: an index out of the window, a power sample
that is there, one with an illegal raw word (the lowest is reported, log 13; a sample index of 2^48 or more loses its high bits in
the information word, log 23), one past the end, and one to wait for. Only the
model's mark of the samples computed moves (log 6). `WIN_PAST_END` names an index of 2^64 or more modulo 2^64 (log 14). -/
def Obligations.GetReadsTheWindow : Prop :=
  ∀ (s : State) (i : BitVec 16) (k : Nat), s.ready → k = s.wpos.toNat + i.toNat →
    (1200 ≤ i.toNat → faults s (.winGet i) .winIndex (i.setWidth 64)) ∧
    (i.toNat < 1200 → k < powerCount s.src → legalPower s.src k →
      exec (.winGet i) s = .next { s with
        taken := max s.taken (k + 1), resp := some (.normal .ok (.bits 32 (BitVec.ofNat 32 (power s.src k)))) }) ∧
    (∀ n u, i.toNat < 1200 → k < powerCount s.src → firstIllegal s.src k n u →
      faults s (.winGet i) .sampleRange (BitVec.ofNat 64 (n * 65536 + u))) ∧
    (i.toNat < 1200 → powerCount s.src ≤ k → s.eos = true →
      faults s (.winGet i) .winPastEnd (BitVec.ofNat 64 k)) ∧
    (i.toNat < 1200 → powerCount s.src ≤ k → s.eos = false → waits s (.winGet i))

/-- 43_window.md R553, R554: `WIN.ADVANCE` and `WIN.ADVANCEBY` in every case: over samples that are there, with their fault at the
first that is not or that has an illegal raw word, which leaves the position of before the command, and their wait. 10_state.md
R101: no step leaves the last 64-bit position, it faults instead, with `TS_OVERFLOW` (log 14). Log 6, log 13 and log 23 as for
`WIN.GET`. -/
def Obligations.AdvanceMovesTheLeftEdge : Prop :=
  (∀ (s : State) (k : Nat), s.ready → k = s.wpos.toNat →
    (k < powerCount s.src → legalPower s.src k → k + 1 < 2 ^ 64 →
      exec .winAdvance s = .next { s with
        wpos := s.wpos + 1#64, dprev := .stale, taken := max s.taken (k + 1), resp := some (.normal .ok .empty) }) ∧
    (k < powerCount s.src → legalPower s.src k → k + 1 = 2 ^ 64 → faults s .winAdvance .tsOverflow s.wpos) ∧
    (∀ n u, k < powerCount s.src → firstIllegal s.src k n u →
      faults s .winAdvance .sampleRange (BitVec.ofNat 64 (n * 65536 + u))) ∧
    (powerCount s.src ≤ k → s.eos = true → faults s .winAdvance .winPastEnd s.wpos) ∧
    (powerCount s.src ≤ k → s.eos = false → waits s .winAdvance)) ∧
  (∀ (s : State) (n : BitVec 32) (p : Nat), s.ready → p = s.wpos.toNat →
    (n = 0#32 → answers s (.winAdvanceby n) .ok .empty) ∧
    (0 < n.toNat → p + n.toNat ≤ powerCount s.src → p + n.toNat < 2 ^ 64 →
      (∀ k, p ≤ k → k < p + n.toNat → legalPower s.src k) →
      exec (.winAdvanceby n) s = .next { s with
        wpos := s.wpos + n.setWidth 64, dprev := .stale, taken := max s.taken (p + n.toNat)
        resp := some (.normal .ok .empty) }) ∧
    (∀ k, p ≤ k → k < p + n.toNat → k < 2 ^ 64 → k = powerCount s.src →
      (∀ j, p ≤ j → j < k → legalPower s.src j) →
      (s.eos = true → faults s (.winAdvanceby n) .winPastEnd (BitVec.ofNat 64 k)) ∧
      (s.eos = false → waits s (.winAdvanceby n))) ∧
    (∀ k m u, p ≤ k → k < p + n.toNat → k < 2 ^ 64 → k < powerCount s.src →
      (∀ j, p ≤ j → j < k → legalPower s.src j) →
      firstIllegal s.src k m u → faults s (.winAdvanceby n) .sampleRange (BitVec.ofNat 64 (m * 65536 + u))) ∧
    (2 ^ 64 ≤ p + n.toNat → 2 ^ 64 ≤ powerCount s.src → (∀ j, p ≤ j → j < 2 ^ 64 → legalPower s.src j) →
      faults s (.winAdvanceby n) .tsOverflow (BitVec.allOnes 64)) ∧
    (0 < n.toNat → powerCount s.src < p → s.eos = true → faults s (.winAdvanceby n) .winPastEnd s.wpos) ∧
    (0 < n.toNat → powerCount s.src < p → s.eos = false → waits s (.winAdvanceby n)))

/-- 43_window.md R555, R556: `WIN.ISFULL` answers as soon as it can, `WIN.POSITION` reads `W.pos`, and neither changes anything. -/
def Obligations.IsFullAndPosition : Prop :=
  (∀ s : State, s.ready →
    (s.wpos.toNat + 1200 ≤ powerCount s.src → answers s .winIsfull .ok (.bits 1 1#1)) ∧
    (powerCount s.src < s.wpos.toNat + 1200 → s.eos = true → answers s .winIsfull .ok (.bits 1 0#1)) ∧
    (powerCount s.src < s.wpos.toNat + 1200 → s.eos = false → waits s .winIsfull)) ∧
  (∀ s : State, s.ready → answers s .winPosition .ok (.bits 64 s.wpos))

/-- 43_window.md R558, 10_state.md R101: the window never moves backwards but by reset: `W.pos` never wraps (log 14). -/
def Obligations.TheWindowNeverMovesBack : Prop :=
  ∀ (i : Instr) (s t : State), i ≠ .blkReset → exec i s = .next t → s.wpos.toNat ≤ t.wpos.toNat

/-! ## The demodulator -/

/-- 44_demodulator.md R608, 30_encoding.md R311: `DEM.SIZE` for all 256 byte values. -/
def Obligations.SizeSelectsDownlinkFormat17 : Prop :=
  ∀ (s : State) (b : BitVec 8), s.ready →
    answers s (.demSize b) .ok (.bits 8 (if b.toNat / 8 = 17 then 14#8 else 0#8))

/-- 44_demodulator.md R614: the end of the input: `DEM.NEXT` becomes done, later ones answer at once, only reset leaves that, and
it implies end-of-stream. -/
def Obligations.DemodulatorEndsAtTheEndOfInput : Prop :=
  State.reset.dstate = .scanning ∧
  (∀ s : State, s.ready → s.dstate = .scanning → s.eos = true → powerCount s.src < s.wpos.toNat + 1200 →
    exec .demNext s = .next { s with dstate := .done, resp := some (.normal .fin .empty) }) ∧
  (∀ s : State, s.ready → s.dstate = .done → answers s .demNext .fin .empty) ∧
  (∀ (i : Instr) (s t : State), exec i s = .next t → s.dstate = .done → t.dstate = .scanning → i = .blkReset) ∧
  (∀ s t : State, step s = .next t → (s.dstate = .done → s.eos = true) → t.dstate = .done → t.eos = true)

/-- 44_demodulator.md R610, R611, R612, R613: `DEM.NEXT` on a valid frame at the left edge: the frame with its timestamp, the skip,
and the fault of a timestamp that leaves its width. The mark of the samples computed is log 6. -/
def Obligations.DemodulatorReturnsTheFrameAtTheLeftEdge : Prop :=
  ∀ (s : State) (bytes : List Byte), s.ready → frameAt s bytes →
    (s.wpos.toNat * 100 < 2 ^ 63 →
      exec .demNext s = .next { foundState s bytes with resp := some (.normal .ok (.frame (foundFrame s bytes))) }) ∧
    (2 ^ 63 ≤ s.wpos.toNat * 100 → faults s .demNext .tsOverflow s.wpos)

/-- 44_demodulator.md R609, R610, 60_exceptions.md R920: a position without a valid frame (no preamble, another downlink format, or
a CRC that is not 0) is left silently, whatever its timestamp would be: `DEM.NEXT` does what it does from the next position, with
this position's score. Only the power samples that the position needs are asked to be legal: those of the preamble test, the 16
points of byte 0 after a preamble, and the other 208 for downlink format 17 alone. The mark of the samples computed is log 6; from
the last 64-bit position the command faults instead (10_state.md R101, log 14). -/
def Obligations.DemodulatorDropsSilently : Prop :=
  ∀ (s s' : State) (reads : Nat), s.ready → scansCleanly s →
    ((¬preambleAt s ∧ reads = 47) ∨
      (preambleAt s ∧ legalPoints s 16 ∧ byteAt s.src s.wpos.toNat 0 / 8 ≠ 17 ∧ reads = 156) ∨
      (preambleAt s ∧ legalPoints s 224 ∧ byteAt s.src s.wpos.toNat 0 / 8 = 17 ∧ reads = 1196 ∧
        bitcrc ((List.range 14).map fun m => BitVec.ofNat 8 (byteAt s.src s.wpos.toNat m)) ≠ 0#24)) →
    s' = { s with
      wpos := s.wpos + 1#64, dprev := .score (BitVec.ofNat 32 (scoreAt s.src s.wpos.toNat))
      taken := max s.taken (s.wpos.toNat + reads) } →
    (s.wpos.toNat + 1 < 2 ^ 64 →
      s'.wpos.toNat = s.wpos.toNat + 1 ∧
      (∀ t o v, exec .demNext s' = .next t → t.resp = some (.normal o v) → exec .demNext s = .next t) ∧
      (∀ c info, faults s' .demNext c info → faults s .demNext c info) ∧
      (waits s' .demNext → waits s .demNext)) ∧
    (s.wpos.toNat + 1 = 2 ^ 64 → faults s .demNext .tsOverflow s.wpos)

/-- 44_demodulator.md R605: a plateau is never accepted: where two neighbouring scores are equal, at the left edge or anywhere
ahead of it, `DEM.NEXT` returns no frame of either position; and none of a position before the left edge. -/
def Obligations.APlateauIsNeverAccepted : Prop :=
  ∀ (s t : State) (f : Frame) (p : Nat), s.dstate = .scanning → s.wpos.toNat ≤ p →
    scoreAt s.src p = scoreAt s.src (p + 1) →
    exec .demNext s = .next t → t.resp = some (.normal .ok (.frame f)) →
    f.ts.toNat ≠ p * 100 ∧ f.ts.toNat ≠ (p + 1) * 100 ∧ s.wpos.toNat * 100 ≤ f.ts.toNat

/-! ## The frame register -/

/-- 45_rawframe.md R651: `FRM.INJECT`, its checks in their order. -/
def Obligations.InjectChecksAndStoresARecord : Prop :=
  ∀ (s : State) (ts : Ts) (frame : List Byte), s.ready → frame.length = 14 →
    (2 ^ 63 ≤ ts.toNat → faults s (.frmInject ts frame) .tsNegative ts) ∧
    (ts.toNat < 2 ^ 63 → (frame.getD 0 0#8).toNat / 8 ≠ 17 → answers s (.frmInject ts frame) .dropDf .empty) ∧
    (ts.toNat < 2 ^ 63 → (frame.getD 0 0#8).toNat / 8 = 17 → bitcrc frame ≠ 0#24 →
      answers s (.frmInject ts frame) .dropCrc .empty) ∧
    (ts.toNat < 2 ^ 63 → (frame.getD 0 0#8).toNat / 8 = 17 → bitcrc frame = 0#24 →
      exec (.frmInject ts frame) s = .next { s with
        frame := some ⟨ts, frame⟩, resp := some (.normal .ok (.frame ⟨ts, frame⟩)) })

/-- 45_rawframe.md R652, R655 to R661: without a frame every accessor, and `MSG.DECODE`, faults with `NO_FRAME`, info 0; with one,
each accessor reads its field of the 14 bytes, and nothing changes. -/
def Obligations.AccessorsReadTheFrame : Prop :=
  (∀ s : State, s.ready → s.frame = none →
    ∀ i ∈ [Instr.frmTs, .frmDf, .frmCa, .frmIcao, .frmMe, .frmTc, .frmBytes, .msgDecode], faults s i .noFrame 0#64) ∧
  (∀ (s : State) (f : Frame), s.ready → s.frame = some f → f.bytes.length = 14 →
    answers s .frmTs .ok (.bits 64 f.ts) ∧
    answers s .frmDf .ok (.bits 5 (BitVec.ofNat 5 ((f.bytes.getD 0 0#8).toNat / 8))) ∧
    answers s .frmCa .ok (.bits 3 (BitVec.ofNat 3 ((f.bytes.getD 0 0#8).toNat % 8))) ∧
    answers s .frmIcao .ok (.bits 24 (BitVec.ofNat 24 ((f.bytes.getD 1 0#8).toNat * 65536 +
      (f.bytes.getD 2 0#8).toNat * 256 + (f.bytes.getD 3 0#8).toNat))) ∧
    answers s .frmMe .ok (.bits 64 (BitVec.ofNat 64 (meNumber f))) ∧
    answers s .frmTc .ok (.bits 5 (BitVec.ofNat 5 ((f.bytes.getD 4 0#8).toNat / 8))) ∧
    answers s .frmBytes .ok (.bytes f.bytes))

/-! ## Messages -/

/-- 46_classify_ident_velocity.md R700, R701, R720: the type codes and subtypes without a decoder: no message, and no state
changes. -/
def Obligations.OtherTypeCodesAreDiscarded : Prop :=
  ∀ (s : State) (f : Frame), s.ready → s.frame = some f → f.bytes.length = 14 →
    (meField f 55 51 = 0 ∨ (5 ≤ meField f 55 51 ∧ meField f 55 51 ≤ 8) ∨ 23 ≤ meField f 55 51 →
      answers s .msgDecode .discTc .empty) ∧
    (meField f 55 51 = 19 → meField f 50 48 = 0 ∨ 5 ≤ meField f 50 48 → answers s .msgDecode .discSt .empty)

/-- 46_classify_ident_velocity.md R710, R711, R712, R714, R715: `MSG.DECODE` of an identification frame. -/
def Obligations.IdentificationIsDecoded : Prop :=
  ∀ (s : State) (f : Frame), s.ready → s.frame = some f → f.bytes.length = 14 → 1 ≤ meField f 55 51 → meField f 55 51 ≤ 4 →
    (0x3F#8 ∈ callSignChars f → answers s .msgDecode .discCallsign .empty) ∧
    (0x3F#8 ∉ callSignChars f →
      answers s .msgDecode .ok (.message (.ident f.ts f.icao
        (BitVec.ofNat 8 ((14 - meField f 55 51) * 8 +
          match s.cfg.catCaSrc with | .me => meField f 50 48 | .cap => (f.bytes.getD 0 0#8).toNat % 8))
        (match s.cfg.trim with
          | .leading => (callSignChars f).dropWhile (fun c => c == 0x20#8)
          | .trailing => (callSignChars f).rdropWhile (fun c => c == 0x20#8)))))

/-- 46_classify_ident_velocity.md R721 to R725: `MSG.DECODE` of a ground-speed frame: the components, the speed as the binary64
nearest to `√(ew² + ns²) · 463/900` m/s, a track in [0, 2π) within 2^−50 rad of the exact angle, from north towards east, of the two
components, and the nearest binary64 on the four axes (the model's arc tangent is log 9, the sign of a zero log 11). -/
def Obligations.GroundVelocityIsDecoded : Prop :=
  ∀ (s : State) (f : Frame) (factor : Nat), s.ready → s.frame = some f → f.bytes.length = 14 → meField f 55 51 = 19 →
    ((meField f 50 48 = 1 ∧ factor = 1) ∨ (meField f 50 48 = 2 ∧ factor = s.cfg.gsFactorSt2.toNat)) →
    (meField f 41 32 = 0 ∨ meField f 30 21 = 0 → answers s .msgDecode .discVelNodata .empty) ∧
    (∀ ew ns : ℤ, meField f 41 32 ≠ 0 → meField f 30 21 ≠ 0 →
      ew = ((meField f 41 32 : ℤ) - 1) * factor * (if meField f 42 42 = 1 then -1 else 1) →
      ns = ((meField f 30 21 : ℤ) - 1) * factor * (if meField f 31 31 = 1 then -1 else 1) →
      ∃ speed track : F64, answers s .msgDecode .ok (.message (.velocity f.ts f.icao speed track)) ∧
        isF64Of speed (Real.sqrt ((ew : ℝ) ^ 2 + (ns : ℝ) ^ 2) * (463 / 900)) ∧ speed.msb = false ∧ f64IsAngle track = true ∧
        (∀ h : ℝ, h = Complex.arg ⟨(ns : ℝ), (ew : ℝ)⟩ →
          |(f64Value track : ℝ) - (if h < 0 then h + 2 * Real.pi else h)| ≤ 1 / 2 ^ 50) ∧
        (ew = 0 → 0 ≤ ns → track = 0#64) ∧ (0 < ew → ns = 0 → track = 0x3FF921FB54442D18#64) ∧
        (ew = 0 → ns < 0 → track = 0x400921FB54442D18#64) ∧ (ew < 0 → ns = 0 → track = 0x4012D97C7F3321D2#64))

/-- 46_classify_ident_velocity.md R730, R731: `MSG.DECODE` of an airspeed frame: the heading is checked first; the speed is the
binary64 nearest to `(AS − 1) · factor · 463/900` m/s; the heading is an angle within 2^−50 rad of `2π · HDG / 1024`, and the nearest
binary64 at the quarter turns (log 9, log 11). -/
def Obligations.AirVelocityIsDecoded : Prop :=
  ∀ (s : State) (f : Frame) (factor : Nat), s.ready → s.frame = some f → f.bytes.length = 14 → meField f 55 51 = 19 →
    ((meField f 50 48 = 3 ∧ factor = 1) ∨ (meField f 50 48 = 4 ∧ factor = s.cfg.asFactorSt4.toNat)) →
    (meField f 42 42 = 0 → answers s .msgDecode .discHeading .empty) ∧
    (meField f 42 42 = 1 → meField f 30 21 = 0 → answers s .msgDecode .discAirspeed .empty) ∧
    (meField f 42 42 = 1 → meField f 30 21 ≠ 0 →
      ∃ speed track : F64, answers s .msgDecode .ok (.message (.velocity f.ts f.icao speed track)) ∧
        isF64Of speed (((meField f 30 21 : ℝ) - 1) * factor * (463 / 900)) ∧ speed.msb = false ∧ f64IsAngle track = true ∧
        |(f64Value track : ℝ) - 2 * Real.pi * (meField f 41 32 : ℝ) / 1024| ≤ 1 / 2 ^ 50 ∧
        (meField f 41 32 = 0 → track = 0#64) ∧ (meField f 41 32 = 256 → track = 0x3FF921FB54442D18#64) ∧
        (meField f 41 32 = 512 → track = 0x400921FB54442D18#64) ∧ (meField f 41 32 = 768 → track = 0x4012D97C7F3321D2#64))

/-- 47_position_altitude.md R750 to R753: `MSG.DECODE` of an airborne position frame: discarded with its altitude, or a message
with the altitude in metres as the binary64 nearest to `ft · 0.3048`. -/
def Obligations.PositionIsDecoded : Prop :=
  ∀ (s : State) (f : Frame), s.ready → s.frame = some f → f.bytes.length = 14 → 9 ≤ meField f 55 51 → meField f 55 51 ≤ 22 →
    meField f 55 51 ≠ 19 →
    (altitudeFt (BitVec.ofNat 12 (meField f 47 36)) = none → answers s .msgDecode .discAlt .empty) ∧
    (∀ feet : ℤ, altitudeFt (BitVec.ofNat 12 (meField f 47 36)) = some feet →
      ∃ metres : F64, isF64Of metres ((feet : ℝ) * 0.3048) ∧ (metres.msb = true ↔ feet < 0) ∧
        answers s .msgDecode .ok (.message (.position
          { ts := f.ts, icao := f.icao, altitudeM := metres
            parity := if meField f 34 34 = 1 then .odd else .even
            x := BitVec.ofNat 17 (meField f 16 0), y := BitVec.ofNat 17 (meField f 33 17) })))

/-- 46_classify_ident_velocity.md R703, 49_tracker.md R857: every message that `MSG.DECODE` builds from a frame whose timestamp is
no negative number passes the checks of `TRK.UPDATE`. -/
def Obligations.DecodedMessagesPassTheChecks : Prop :=
  ∀ (o : Config.Options) (f : Frame) (m : Message),
    f.ts.toNat < 2 ^ 63 → decodeFrame o f = .message m → checkMsg m.toOperand = .done m

/-- 00_scope.md R33: the fraction rounding gives the nearest binary64, ties to even, for every fraction that does not round past the
largest finite number (below 2^1024 − 2^970), so for subnormal results too. A result that is 0 is +0.0 (log 11). -/
def Obligations.FractionsRoundToNearestEven : Prop :=
  ∀ n d : Nat, 0 < d → n < d * (2 ^ 1024 - 2 ^ 970) → (f64Ratio n d).msb = false ∧ isF64Of (f64Ratio n d) ((n : ℝ) / d)

/-- 46_classify_ident_velocity.md R712, R713: `CS.CHAR` reads the alphabet. -/
def Obligations.CharReadsTheAlphabet : Prop :=
  ∀ (s : State) (code : BitVec 8), s.ready →
    (63 < code.toNat → faults s (.csChar code) .badOperand (code.setWidth 64)) ∧
    (code.toNat ≤ 63 → ∃ c, alphabetTable[code.toNat]? = some c ∧ answers s (.csChar code) .ok (.bits 8 c))

/-! ## Altitude -/

/-- 47_position_altitude.md R760, R761, R762, R763 and 30_encoding.md R325: `ALT.DECODE` of an operand above 12 bits, of the Q-bit
encoding, and of a Gillham code: its coarse and its fine number are those whose Gray codes (R766) stand in the bits named
D1 D2 D4 A1 A2 A4 B1 B2 B4 and C1 C2 C4. -/
def Obligations.AltitudeIsDecoded : Prop :=
  (∀ (s : State) (a : BitVec 16), s.ready →
    (0xFFF < a.toNat → faults s (.altDecode a) .badOperand (a.setWidth 64)) ∧
    (a.toNat ≤ 0xFFF → a.getLsbD 4 = true → ∃ v : BitVec 32,
      v.toInt = max 0 (25 * ((a.toNat / 32 * 16 + a.toNat % 16 : ℕ) : ℤ) - 1000) ∧ answers s (.altDecode a) .ok (.bits 32 v))) ∧
  (∀ (s : State) (a coarse fine : BitVec 16), s.ready → a.toNat ≤ 0xFFF → a.getLsbD 4 = false → coarse.toNat < 512 →
    fine.toNat < 8 →
    ([4, 2, 0, 10, 8, 6, 5, 3, 1].map a.getLsbD) = ((List.range 9).map fun k => (grayEncode coarse).getLsbD (8 - k)) →
    ([11, 9, 7].map a.getLsbD) = ((List.range 3).map fun k => (grayEncode fine).getLsbD (2 - k)) →
    (fine.toNat = 0 ∨ fine.toNat = 5 ∨ fine.toNat = 6 → answers s (.altDecode a) .discAlt .empty) ∧
    (∀ g : ℤ, g = (if fine.toNat = 7 then 5 else fine.toNat) → fine.toNat ≠ 0 → fine.toNat ≠ 5 → fine.toNat ≠ 6 →
      ∃ v : BitVec 32, answers s (.altDecode a) .ok (.bits 32 v) ∧
        v.toInt = -1300 + 100 * (if coarse.toNat % 2 = 1 then 6 - g else g) + 500 * coarse.toNat))

/-- 47_position_altitude.md R763: exactly 1280 of the codes without the Q bit are valid, they cover −1200 ft to 126 700 ft in steps
of 100 ft, and two codes of neighbouring altitudes differ in one bit. -/
def Obligations.GillhamCodesAreAGrayCode : Prop :=
  (List.range 4096).countP (fun n => decide (n / 16 % 2 = 0) && (altitudeFt (BitVec.ofNat 12 n)).isSome) = 1280 ∧
  (∀ k : Nat, k < 1280 → ∃ a : BitVec 12, a.getLsbD 4 = false ∧ altitudeFt a = some (-1200 + 100 * (k : ℤ))) ∧
  (∀ (a b : BitVec 12) (ft : ℤ), a.getLsbD 4 = false → b.getLsbD 4 = false → altitudeFt a = some ft →
    altitudeFt b = some (ft + 100) → ∃ i, i < 12 ∧ a ^^^ b = 1#12 <<< i)

/-- 47_position_altitude.md R765, R766: `GRAY.DECODE`, its two faults in their order, its result bit by bit (bit `j` is the exclusive
or of the code's bits from `j` up), and the round trip with the encoder for every width. -/
def Obligations.GrayDecodeInvertsTheGrayCode : Prop :=
  (∀ (s : State) (v : BitVec 16) (n : BitVec 8), s.ready →
    (¬(1 ≤ n.toNat ∧ n.toNat ≤ 16) → faults s (.grayDecode v n) .badOperand (n.setWidth 64)) ∧
    (1 ≤ n.toNat → n.toNat ≤ 16 → 2 ^ n.toNat ≤ v.toNat → faults s (.grayDecode v n) .badOperand (v.setWidth 64)) ∧
    (1 ≤ n.toNat → n.toNat ≤ 16 → v.toNat < 2 ^ n.toNat → ∃ d : BitVec 16,
      answers s (.grayDecode v n) .ok (.bits 16 d) ∧
      ∀ j, j < 16 → d.getLsbD j = (List.range 16).foldl (fun acc i => acc ^^ (v.getLsbD (j + i))) false)) ∧
  (∀ (s : State) (v : BitVec 16) (n : BitVec 8), s.ready → 1 ≤ n.toNat → n.toNat ≤ 16 → v.toNat < 2 ^ n.toNat →
    answers s (.grayDecode (v ^^^ (v >>> 1)) n) .ok (.bits 16 v))

/-! ## CPR -/

/-- 48_cpr.md R800 to R814: `CPR.MERGE` over the rationals: the latitudes, the zone counts and their comparison, the longitudes, the
selection by `recent`, the bound on the latitude, and the rounding to T32. -/
def Obligations.MergeIsExactRationalArithmetic : Prop :=
  ∀ (s : State) (x0 y0 x1 y1 : BitVec 17) (recent : BitVec 1) (j : ℤ) (lat0 lat1 : ℚ), s.ready →
    isRound s.cfg.roundTie (59 * localFraction y0 - 60 * localFraction y1) j →
    lat0 = zoneTurns 60 j y0 → lat1 = zoneTurns 59 j y1 →
    (zonesAt s.cfg lat0 ≠ zonesAt s.cfg lat1 → answers s (.cprMerge x0 y0 x1 y1 recent) .indetZone .empty) ∧
    (∀ (nl : Nat) (m : ℤ) (lat lon : ℚ) (latT lonT : ℤ), zonesAt s.cfg lat0 = nl → zonesAt s.cfg lat1 = nl →
      isRound s.cfg.roundTie (localFraction x0 * (nl - 1) - localFraction x1 * nl) m →
      (recent = 0#1 → lat = lat0 ∧ lon = longitudeTurns nl nl m x0) →
      (recent = 1#1 → lat = lat1 ∧ lon = longitudeTurns nl (nl - 1) m x1) →
      isRound s.cfg.roundTie (lat * 2 ^ 32) latT → isRound s.cfg.roundTie (lon * 2 ^ 32) lonT →
      (2 ^ 30 < |latT| → answers s (.cprMerge x0 y0 x1 y1 recent) .indetLat .empty) ∧
      (|latT| ≤ 2 ^ 30 →
        answers s (.cprMerge x0 y0 x1 y1 recent) .ok (.geo ⟨BitVec.ofInt 32 lonT, BitVec.ofInt 32 latT⟩)))

/-- 48_cpr.md R800, R814, R815, R816: `CPR.MERGE` answers for all operands, with a position whose latitude is within ±90° or with
one of the two indeterminate outcomes; no longitude leaves its 32-bit field; four zero operands give the position (0, 0),
whatever `NL_EQUATOR` is. -/
def Obligations.MergeAlwaysAnswersInBounds : Prop :=
  ((∀ (s : State) (x0 y0 x1 y1 : BitVec 17) (recent : BitVec 1), s.ready →
    (∃ geo : GeoPos, |geo.latT32.toInt| ≤ 2 ^ 30 ∧ answers s (.cprMerge x0 y0 x1 y1 recent) .ok (.geo geo)) ∨
    answers s (.cprMerge x0 y0 x1 y1 recent) .indetZone .empty ∨
    answers s (.cprMerge x0 y0 x1 y1 recent) .indetLat .empty) ∧
  (∀ (tie : Config.RoundTie) (x0 x1 : BitVec 17) (nl : Nat), 1 ≤ nl → nl ≤ 60 →
    -(2 ^ 31) ≤ toT32 tie (lonEven tie x0 x1 nl).1 (lonEven tie x0 x1 nl).2 ∧
    toT32 tie (lonEven tie x0 x1 nl).1 (lonEven tie x0 x1 nl).2 < 2 ^ 31 ∧
    -(2 ^ 31) ≤ toT32 tie (lonOdd tie x0 x1 nl).1 (lonOdd tie x0 x1 nl).2 ∧
    toT32 tie (lonOdd tie x0 x1 nl).1 (lonOdd tie x0 x1 nl).2 < 2 ^ 31)) ∧
  (∀ (s : State) (recent : BitVec 1), s.ready →
    answers s (.cprMerge 0#17 0#17 0#17 0#17 recent) .ok (.geo ⟨0#32, 0#32⟩))

/-- 48_cpr.md R805, R806, R807 (that the table decides is log 15): a zone count is 1 to 60, the same for a latitude and its negative
and for `1/2 − |lat|`, and never grows away from the equator; it is `NL_EQUATOR` at 0, `n` between `φ_(n+1)` and `φ_n` for every row of
R807's table, `NL_87` at 87° and 1 from there to the pole (whatever the OPEN values are). -/
def Obligations.ZoneCountIsSymmetricAndFalls : Prop :=
  ∀ (o : Config.Options) (n m : ℤ) (d : Nat), 0 < d →
    1 ≤ zoneCount o n d ∧ zoneCount o n d ≤ 60 ∧ zoneCount o (-n) d = zoneCount o n d ∧
    (n.natAbs ≤ m.natAbs → 4 * m.natAbs ≤ d → zoneCount o m d ≤ zoneCount o n d) ∧
    (2 * n.natAbs ≤ d → zoneCount o (d - 2 * n.natAbs) (2 * d) = zoneCount o n d) ∧
    (n = 0 → zoneCount o n d = match o.nlEquator with | .n60 => 60 | .n59 => 59) ∧
    (∀ (k : Nat) (phi lat : ℚ), lat = (n.natAbs : ℚ) / d → (k, phi) ∈ transitions → 0 < lat → lat < phi →
      (∀ phi', (k + 1, phi') ∈ transitions → phi' < lat) → zoneCount o n d = k) ∧
    (∀ phi : ℚ, (3, phi) ∈ transitions → phi < (n.natAbs : ℚ) / d → 120 * n.natAbs < 29 * d → zoneCount o n d = 2) ∧
    (8 * n.natAbs = d → zoneCount o n d = 42) ∧
    (120 * n.natAbs = 29 * d → zoneCount o n d = match o.nl87 with | .n2 => 2 | .n1 => 1) ∧
    (29 * d < 120 * n.natAbs → 4 * n.natAbs ≤ d → zoneCount o n d = 1)

/-! ## Tracker and events -/

/-- 49_tracker.md R857, 30_encoding.md R304, 60_exceptions.md R911: the checks of `TRK.UPDATE`, in their order. -/
def Obligations.UpdateChecksItsOperand : Prop :=
  ∀ (s : State) (ts : Ts) (icao : Icao), s.ready →
    (∀ tag : Byte, faults s (.trkUpdate (.badTag tag)) .badOperand (tag.setWidth 64)) ∧
    (2 ^ 63 ≤ ts.toNat →
      (∀ category callSign, faults s (.trkUpdate (.ident ts icao category callSign)) .tsNegative ts) ∧
      (∀ altitude parity x y, faults s (.trkUpdate (.position ts icao altitude parity x y)) .tsNegative ts) ∧
      (∀ speed track, faults s (.trkUpdate (.velocity ts icao speed track)) .tsNegative ts)) ∧
    (ts.toNat < 2 ^ 63 →
      (∀ category callSign, 8 < callSign.length →
        faults s (.trkUpdate (.ident ts icao category callSign)) .badField 1#64) ∧
      (∀ category callSign, callSign.length ≤ 8 → (∃ c ∈ callSign, callSignChar c = false) →
        faults s (.trkUpdate (.ident ts icao category callSign)) .badField 2#64) ∧
      (∀ altitude parity x y, 1 < parity.toNat →
        faults s (.trkUpdate (.position ts icao altitude parity x y)) .badField 3#64) ∧
      (∀ altitude parity x y, parity.toNat ≤ 1 → f64IsNaN altitude = true →
        faults s (.trkUpdate (.position ts icao altitude parity x y)) .badField 4#64) ∧
      (∀ speed track, f64NonNeg speed = false → faults s (.trkUpdate (.velocity ts icao speed track)) .badField 5#64) ∧
      (∀ speed track, f64NonNeg speed = true → f64IsAngle track = false →
        faults s (.trkUpdate (.velocity ts icao speed track)) .badField 6#64))

/-- 49_tracker.md R857: what the field checks say of binary64 values: a speed is at least 0, a track at least 0 and below `f64(2π)`;
no NaN and no infinite track passes (log 21). -/
def Obligations.FieldChecksMeanTheirInequalities : Prop :=
  ∀ v : F64,
    (f64Finite v → (f64NonNeg v = true ↔ 0 ≤ f64Value v)) ∧ (f64IsNaN v = true → f64NonNeg v = false) ∧
    (f64IsAngle v = true ↔ f64Finite v ∧ 0 ≤ f64Value v ∧ f64Value v < f64Value 0x401921FB54442D18#64)

/-- 49_tracker.md R850 to R854, R880: `TRK.UPDATE` of a checked identification or velocity message: the entry of its address, no
other entry, `T.lastNs`, and one event. The NaN pattern of a new entry is PRESUMED (log 10); a speed or a track may be −0.0 and a
speed infinite (log 21). -/
def Obligations.UpdateRecordsIdentAndVelocity : Prop :=
  ∀ (s : State) (ts : Ts) (icao : Icao) (base : AircraftState), s.ready → ts.toNat < 2 ^ 63 →
    (base = { lastSeenNs := ts, category := none, callSign := none, position := none, altitudeM := f64NaN, speedMps := none
              trackRad := none, slotEven := none, slotOdd := none } ∧ tableGet icao s.table = none ∨
      ∃ old, tableGet icao s.table = some old ∧ base = { old with lastSeenNs := ts }) →
    ∀ (i : Instr) (a : AircraftState),
      ((∃ category callSign, callSign.length ≤ 8 ∧ callSign.all callSignChar = true ∧
          i = .trkUpdate (.ident ts icao category callSign) ∧
          a = { base with category := some category, callSign := some callSign }) ∨
        (∃ speed track, f64NonNeg speed = true ∧ f64IsAngle track = true ∧ i = .trkUpdate (.velocity ts icao speed track) ∧
          a = { base with speedMps := some speed, trackRad := some track })) →
      ∃ table, tableGet icao table = some a ∧ (∀ b, b ≠ icao → tableGet b table = tableGet b s.table) ∧
        exec i s = .next { s with
          table := table, lastNs := some ts
          ev := s.ev ++ [if tableGet icao s.table = none then .add icao a else .update icao a]
          resp := some (.normal .ok .empty) }

/-- 49_tracker.md R850, R855, R856: `TRK.UPDATE` of a checked position message: the slot and the altitude always, the position only
if the other slot holds a message, the merge succeeds and the timestamps are at most 10 s apart. The NaN pattern of a new entry is
PRESUMED (log 10); an altitude may be infinite (log 21). -/
def Obligations.UpdateRecordsAPosition : Prop :=
  ∀ (s : State) (p : PositionMsg) (base stored : AircraftState) (parity : BitVec 8), s.ready → p.ts.toNat < 2 ^ 63 →
    f64IsNaN p.altitudeM = false → (parity = 0#8 ∧ p.parity = .even ∨ parity = 1#8 ∧ p.parity = .odd) →
    (base = { lastSeenNs := p.ts, category := none, callSign := none, position := none, altitudeM := f64NaN, speedMps := none
              trackRad := none, slotEven := none, slotOdd := none } ∧ tableGet p.icao s.table = none ∨
      ∃ old, tableGet p.icao s.table = some old ∧ base = { old with lastSeenNs := p.ts }) →
    stored = (match p.parity with
      | .even => { base with altitudeM := p.altitudeM, slotEven := some p }
      | .odd => { base with altitudeM := p.altitudeM, slotOdd := some p }) →
    ∀ (a : AircraftState) (outcome : RespOutcome),
      (((match p.parity with | .even => base.slotOdd | .odd => base.slotEven) = none ∧ a = stored ∧ outcome = .ok) ∨
        ∃ other merged,
          (match p.parity with | .even => base.slotOdd | .odd => base.slotEven) = some other ∧
          merged = (match p.parity with
            | .even => cprMerge s.cfg p.x p.y other.x other.y .even
            | .odd => cprMerge s.cfg other.x other.y p.x p.y .odd) ∧
          ((merged = .indeterminate outcome ∧ a = stored) ∨
            (∃ geo, merged = .position geo ∧ 10000000000 < |(p.ts.toNat : ℤ) - other.ts.toNat| ∧ a = stored ∧
              outcome = .timeout) ∨
            (∃ geo, merged = .position geo ∧ |(p.ts.toNat : ℤ) - other.ts.toNat| ≤ 10000000000 ∧
              a = { stored with position := some geo } ∧ outcome = .ok))) →
      ∃ table, tableGet p.icao table = some a ∧ (∀ b, b ≠ p.icao → tableGet b table = tableGet b s.table) ∧
        exec (.trkUpdate (.position p.ts p.icao p.altitudeM parity p.x p.y)) s = .next { s with
          table := table, lastNs := some p.ts
          ev := s.ev ++ [if tableGet p.icao s.table = none then .add p.icao a else .update p.icao a]
          resp := some (.normal outcome .empty) }

/-- 49_tracker.md R858: two position messages with equal local coordinates (those of program P3) and opposite parity: 2 s apart they
give one merged position, 15 s apart none. -/
def Obligations.PairsWithinTenSecondsMerge : Prop :=
  ∀ (s t u : State) (icao : Icao) (ts : Ts) (first gap : Nat) (alt : F64), s.ready → tableGet icao s.table = none →
    f64IsNaN alt = false → ts.toNat + 15000000000 < 2 ^ 63 → first < 2 →
    (gap = 2000000000 ∨ gap = 15000000000) →
    exec (.trkUpdate (.position ts icao alt (BitVec.ofNat 8 first) 1000#17 1000#17)) s = .next t →
    exec (.trkUpdate (.position (ts + BitVec.ofNat 64 gap) icao alt (BitVec.ofNat 8 (1 - first)) 1000#17 1000#17)) t = .next u →
    ∃ a, tableGet icao u.table = some a ∧
      (gap = 2000000000 → a.position.isSome = true ∧ u.resp = some (.normal .ok .empty)) ∧
      (gap = 15000000000 → a.position = none ∧ u.resp = some (.normal .timeout .empty))

/-- 49_tracker.md R860, R862: `TRK.PURGE`: the entries more than 60 s old go, in ascending order of their addresses, one `Remove`
each; the others stay as they are. -/
def Obligations.PurgeRemovesStaleEntries : Prop :=
  ∀ (s : State) (now : Ts), s.ready → tableWf s.table →
    (2 ^ 63 ≤ now.toNat → faults s (.trkPurge now) .tsNegative now) ∧
    (now.toNat < 2 ^ 63 → ∃ (table : List (Icao × AircraftState)) (gone : List Icao),
      gone.Pairwise (fun a b => a.toNat < b.toNat) ∧
      (∀ a, a ∈ gone ↔ ∃ e, tableGet a s.table = some e ∧ 60000000000 < (now.toNat : ℤ) - e.lastSeenNs.toNat) ∧
      (∀ a, tableGet a table = if a ∈ gone then none else tableGet a s.table) ∧
      exec (.trkPurge now) s = .next { s with
        table := table, ev := s.ev ++ gone.map Event.remove
        resp := some (.normal .ok (.bits 32 (BitVec.ofNat 32 gone.length))) })

/-- 49_tracker.md R870, R871, R882: `TRK.READ` gives the entry of its address, if there is one, `TRK.LAST` the last timestamp, and
neither changes anything; `EV.POP` takes the oldest event. -/
def Obligations.TrackerAndEventReads : Prop :=
  (∀ (s : State) (icao : Icao), s.ready → tableWf s.table →
    (∀ a, (icao, a) ∈ s.table → answers s (.trkRead icao) .ok (.aircraft (some a))) ∧
    ((∀ e ∈ s.table, e.1 ≠ icao) → answers s (.trkRead icao) .ok (.aircraft none)) ∧
    answers s .trkLast .ok (.time s.lastNs)) ∧
  (∀ s : State, s.ready →
    (s.ev = [] → answers s .evPop .ok (.event none)) ∧
    (∀ e rest, s.ev = e :: rest →
      exec .evPop s = .next { s with ev := rest, resp := some (.normal .ok (.event (some e))) }))

/-- 49_tracker.md R881: one event for every successful `TRK.UPDATE`, for the address of its message, `Add` exactly for a new entry;
one `Remove` for every entry that `TRK.PURGE` takes out, and these are the stale ones (R860); `PIPE.STEP` emits that of its
`TRK.UPDATE`, if it comes to one (R890); no other command emits, and only `EV.POP` and `BLK.RESET` take events out. -/
def Obligations.EventsAreEmittedByTheTrackerOnly : Prop :=
  ∀ (i : Instr) (s t : State), exec i s = .next t →
    (∀ msg, i = .trkUpdate msg →
      (∀ o v, t.resp = some (.normal o v) → ∃ m a, checkMsg msg = .done m ∧ tableGet m.icao t.table = some a ∧
        t.ev = s.ev ++ [if tableGet m.icao s.table = none then .add m.icao a else .update m.icao a]) ∧
      ((∀ o v, t.resp ≠ some (.normal o v)) → t.ev = s.ev)) ∧
    (∀ now, i = .trkPurge now →
      (∀ o v, t.resp = some (.normal o v) →
        t.ev = s.ev ++ (s.table.filter fun e => 60000000000 < (now.toNat : ℤ) - e.2.lastSeenNs.toNat).map (fun e => .remove e.1) ∧
        t.table = s.table.filter fun e => (now.toNat : ℤ) - e.2.lastSeenNs.toNat ≤ 60000000000) ∧
      ((∀ o v, t.resp ≠ some (.normal o v)) → t.ev = s.ev)) ∧
    (i = .pipeStep →
      (∀ o m, t.resp = some (.normal o (.message m)) → ∃ a, tableGet m.icao t.table = some a ∧
        t.ev = s.ev ++ [if tableGet m.icao s.table = none then .add m.icao a else .update m.icao a]) ∧
      ((∀ o m, t.resp ≠ some (.normal o (.message m))) → t.ev = s.ev)) ∧
    ((∀ msg, i ≠ .trkUpdate msg) → (∀ now, i ≠ .trkPurge now) → i ≠ .pipeStep → i ≠ .evPop → i ≠ .blkReset → t.ev = s.ev) ∧
    (i = .evPop → t.ev = s.ev ∨ t.ev = s.ev.drop 1) ∧ (i = .blkReset → t.ev = [])

/-! ## The pipeline -/

/-- 49_tracker.md R890: `PIPE.STEP` wherever `DEM.NEXT` finds a frame: `DEM.NEXT`, then `MSG.DECODE` of that frame under the
configuration, then the update with the message, in one step; that it completes on a valid frame at the left edge; and where
`DEM.NEXT` finds no frame, its end, its fault or its wait. How a wait is held is log 3, the samples computed are log 6. -/
def Obligations.PipeStepRunsTheThreeStages : Prop :=
  (∀ (s t : State) (f : Frame), exec .demNext s = .next t → t.resp = some (.normal .ok (.frame f)) →
    t.frame = some f ∧
    (∀ reason, decodeFrame s.cfg f = .discard reason →
      exec .pipeStep s = .next { t with resp := some (.normal reason (.frame f)) }) ∧
    (∀ m, decodeFrame s.cfg f = .message m → ∃ u o, exec (.trkUpdate m.toOperand) t = .next u ∧
      u.resp = some (.normal o .empty) ∧ exec .pipeStep s = .next { u with resp := some (.normal o (.message m)) })) ∧
  (∀ (s : State) (bytes : List Byte), s.ready → frameAt s bytes → s.wpos.toNat * 100 < 2 ^ 63 →
    ∃ t o v, exec .pipeStep s = .next t ∧ t.resp = some (.normal o v) ∧ t.frame = some (foundFrame s bytes) ∧
      t.wpos.toNat = s.wpos.toNat + 1200) ∧
  (∀ s t : State, s.ready → exec .demNext s = .next t →
    (t.resp = some (.normal .fin .empty) → exec .pipeStep s = .next t) ∧
    (∀ c info, t.resp = some (.fault c info) → exec .pipeStep s = .next t) ∧
    (t.resp = none → exec .pipeStep s = .next { t with pending := some .pipeStep }))

/-! ## Waits and bad samples of the demodulator -/

/-- 44_demodulator.md R610, 43_window.md R555, 42_conditioning_power.md R502: `DEM.NEXT` waits while the window at the left edge is not
full before end-of-stream (how a wait is held is log 3). With a full window it faults
with `SAMPLE_RANGE` at the first power sample it needs that has an illegal raw word: those of the preamble test in the order of
log 12, then, if the preamble is accepted, the two points of each message bit in turn, those of bits 8 to 111 only for downlink
format 17 (R609). The lowest bad word of a power sample is reported (log 13), its index in the 48 high bits (log 23). Positions
that are passed by are in `DemodulatorDropsSilently`. -/
def Obligations.DemodulatorWaitsAndReportsBadSamples : Prop :=
  (∀ s : State, s.ready → s.dstate = .scanning → s.eos = false → powerCount s.src < s.wpos.toNat + 1200 →
    waits s .demNext) ∧
  (∀ (s : State) (j k n u : Nat), s.ready → s.dstate = .scanning → s.wpos.toNat + 1200 ≤ powerCount s.src →
    (preambleOrder s)[j]? = some k → (∀ k' ∈ (preambleOrder s).take j, legalPower s.src k') → firstIllegal s.src k n u →
    faults s .demNext .sampleRange (BitVec.ofNat 64 (n * 65536 + u))) ∧
  (∀ (s : State) (j n u : Nat), s.ready → s.dstate = .scanning → s.wpos.toNat + 1200 ≤ powerCount s.src →
    (∀ k ∈ preambleOrder s, legalPower s.src k) → preambleAt s → j < 224 →
    (16 ≤ j → byteAt s.src s.wpos.toNat 0 / 8 = 17) → legalPoints s j →
    firstIllegal s.src (s.wpos.toNat + 80 + 5 * j) n u →
    faults s .demNext .sampleRange (BitVec.ofNat 64 (n * 65536 + u)))
end

