-- ==== Sys2Proof/Laws/ArcTangent.lean ====
section
/-! SUPPORT. The fixed-point arc tangent of Binary64.lean against the real one: Euler's series is what is left of the integral of 1
up to the angle after the reduction formula of `sin^(2n)` is applied again and again. -/

namespace Sys2Proof.Machine

/-- The reduction formula, solved for the lower power. -/
theorem integral_sin_step (θ : ℝ) (n : Nat) :
    ∫ x in (0 : ℝ)..θ, Real.sin x ^ (2 * n) =
      Real.sin θ ^ (2 * n + 1) * Real.cos θ / (2 * n + 1) +
        (2 * n + 2) / (2 * n + 1) * ∫ x in (0 : ℝ)..θ, Real.sin x ^ (2 * (n + 1)) := by
  have h := @integral_sin_pow 0 θ (2 * n)
  rw [show 2 * n + 2 = 2 * (n + 1) by ring] at h
  rw [h]
  simp only [Real.sin_zero, Nat.cast_mul, Nat.cast_ofNat]
  field_simp
  ring

/-- The integral that is left over after `n` reductions. -/
theorem integral_sin_bound {θ : ℝ} (h0 : 0 ≤ θ) (h1 : θ ≤ 1) {q : ℝ} (hθ : Real.sin θ ^ 2 = q) (n : Nat) :
    0 ≤ ∫ x in (0 : ℝ)..θ, Real.sin x ^ (2 * n) ∧ ∫ x in (0 : ℝ)..θ, Real.sin x ^ (2 * n) ≤ q ^ n := by
  have hpi := Real.pi_gt_three
  have hx : ∀ x ∈ Set.Icc 0 θ, 0 ≤ Real.sin x ^ (2 * n) ∧ Real.sin x ^ (2 * n) ≤ q ^ n := by
    intro x hx
    have hs : 0 ≤ Real.sin x := Real.sin_nonneg_of_nonneg_of_le_pi hx.1 (by linarith [hx.2])
    refine ⟨pow_nonneg hs _, ?_⟩
    rw [pow_mul, ← hθ]
    exact pow_le_pow_left₀ (sq_nonneg _)
      (pow_le_pow_left₀ hs (Real.sin_le_sin_of_le_of_le_pi_div_two (by linarith [hx.1]) (by linarith) hx.2) 2) n
  refine ⟨intervalIntegral.integral_nonneg h0 fun x hm => (hx x hm).1, ?_⟩
  have hi : IntervalIntegrable (fun x => Real.sin x ^ (2 * n)) MeasureTheory.volume 0 θ :=
    (Real.continuous_sin.pow _).intervalIntegrable _ _
  calc ∫ x in (0 : ℝ)..θ, Real.sin x ^ (2 * n) ≤ ∫ _ in (0 : ℝ)..θ, q ^ n :=
        intervalIntegral.integral_mono_on h0 hi (by simp) fun x hm => (hx x hm).2
    _ = θ * q ^ n := by simp
    _ ≤ q ^ n := by
        have : 0 ≤ q ^ n := pow_nonneg (hθ ▸ sq_nonneg _) _
        nlinarith

/-- One term of `atanSum` is the exact next term, up to half the error of the term before it and one unit. -/
theorem atanTerm_near {y2 s2 n term : Nat} {t : ℝ} (hs : 0 < s2) (h : 2 * y2 ≤ s2) (ht : |(term : ℝ) - t| ≤ 2) :
    |((term * ((2 * n + 2) * y2) / ((2 * n + 3) * s2) : Nat) : ℝ) - t * ((2 * n + 2) / (2 * n + 3) * (y2 / s2))| ≤ 2 := by
  have hs' : (0 : ℝ) < s2 := by exact_mod_cast hs
  have hd : (0 : ℝ) < ((2 * n + 3) * s2 : Nat) := by positivity
  set r : ℝ := (2 * n + 2) / (2 * n + 3) * (y2 / s2) with hr
  have hr0 : 0 ≤ r := by positivity
  have hr1 : r ≤ 1 / 2 := by
    have h1 : ((2 : ℝ) * n + 2) / (2 * n + 3) ≤ 1 := by rw [div_le_one (by positivity)]; linarith
    have h2 : (y2 : ℝ) / s2 ≤ 1 / 2 := by
      rw [div_le_div_iff₀ hs' (by norm_num)]
      have : (2 : ℝ) * y2 ≤ s2 := by exact_mod_cast h
      linarith
    have h3 : 0 ≤ (y2 : ℝ) / s2 := by positivity
    nlinarith
  have he : (((term * ((2 * n + 2) * y2) : Nat) : ℝ) / ((2 * n + 3) * s2 : Nat)) = term * r := by
    rw [hr]; push_cast; field_simp
  have hlo := Nat.floor_le (show 0 ≤ (term : ℝ) * r by positivity)
  have hhi := Nat.lt_floor_add_one ((term : ℝ) * r)
  rw [← he, Nat.floor_div_eq_div, he] at hlo hhi
  rw [abs_le] at ht ⊢
  constructor <;> nlinarith

/-- The sum against the integral: `D` is the coefficient of the next term. -/
theorem atanSum_near {y2 s2 : Nat} (hs : 0 < s2) (h : 2 * y2 ≤ s2) {θ : ℝ} (hq : Real.sin θ ^ 2 = y2 / s2) :
    ∀ (fuel n term : Nat) (D : ℝ), 0 ≤ D →
      |(term : ℝ) - D * (Real.sin θ ^ (2 * n + 1) * Real.cos θ / (2 * n + 1))| ≤ 2 →
      ∃ D' : ℝ, 0 ≤ D' ∧ D' * (n + 1) ≤ D * (n + fuel + 1) ∧
        |(atanSum y2 s2 fuel n term : ℝ) -
          (D * (∫ x in (0 : ℝ)..θ, Real.sin x ^ (2 * n)) - D' * ∫ x in (0 : ℝ)..θ, Real.sin x ^ (2 * (n + fuel)))| ≤ 2 * fuel := by
  intro fuel
  induction fuel with
  | zero => intro n term D hD _; exact ⟨D, hD, by simp, by simp [atanSum]⟩
  | succ fuel ih =>
    intro n term D hD ht
    have hn : (0 : ℝ) < 2 * n + 1 := by positivity
    have hnext : (D * (Real.sin θ ^ (2 * n + 1) * Real.cos θ / (2 * n + 1))) * ((2 * n + 2) / (2 * n + 3) * (y2 / s2)) =
        D * ((2 * n + 2) / (2 * n + 1)) *
          (Real.sin θ ^ (2 * (n + 1) + 1) * Real.cos θ / (2 * ((n + 1 : ℕ) : ℝ) + 1)) := by
      rw [← hq]
      push_cast
      field_simp
      ring
    have hstep := atanTerm_near (n := n) hs h ht
    rw [hnext] at hstep
    obtain ⟨D', h0, h1, h2⟩ := ih (n + 1) _ (D * ((2 * n + 2) / (2 * n + 1))) (by positivity) hstep
    refine ⟨D', h0, ?_, ?_⟩
    · push_cast at h1 ⊢
      have hc : D * ((2 * n + 2) / (2 * n + 1)) * (n + 1) ≤ D * (n + 2) := by
        rw [mul_assoc]
        refine mul_le_mul_of_nonneg_left ?_ hD
        rw [div_mul_eq_mul_div, div_le_iff₀ hn]
        nlinarith [(Nat.cast_nonneg n : (0 : ℝ) ≤ n)]
      have hn0 : (0 : ℝ) ≤ n := Nat.cast_nonneg n
      have hf0 : (0 : ℝ) ≤ fuel := Nat.cast_nonneg fuel
      have hK : 0 ≤ (n : ℝ) + fuel + 2 := by positivity
      have h3 : D' * (n + 1) * (n + 2) ≤ D * (n + fuel + 2) * (n + 2) := by
        have := mul_le_mul_of_nonneg_right h1 (show (0 : ℝ) ≤ n + 1 by positivity)
        have := mul_le_mul_of_nonneg_right hc hK
        nlinarith
      have := le_of_mul_le_mul_right h3 (by positivity)
      linarith
    · rw [atanSum, integral_sin_step θ n]
      rw [show n + 1 + fuel = n + (fuel + 1) by ring] at h2
      push_cast at h2 ⊢
      rw [abs_le] at ht h2 ⊢
      constructor <;> linarith

/-- `atanFix` is the arc tangent in units of `2^(−200)`, within 422 units. -/
theorem atanFix_near {y x : Nat} (hx : 0 < x) (h : y ≤ x) :
    |(atanFix y x : ℝ) - Real.arctan (y / x) * 2 ^ fixBits| ≤ 422 := by
  have hx' : (0 : ℝ) < x := by exact_mod_cast hx
  have hs : 0 < x * x + y * y := by positivity
  set θ := Real.arctan ((y : ℝ) / x) with hθ
  have hyx : 0 ≤ (y : ℝ) / x := by positivity
  have hyx1 : (y : ℝ) / x ≤ 1 := by rw [div_le_one hx']; exact_mod_cast h
  have h0 : 0 ≤ θ := Real.arctan_nonneg.mpr hyx
  have h1 : θ ≤ 1 := by
    have : θ ≤ Real.pi / 4 := by rw [← Real.arctan_one]; exact Real.arctan_strictMono.monotone hyx1
    linarith [Real.pi_lt_four]
  have hden : (0 : ℝ) < x ^ 2 + y ^ 2 := by positivity
  have hsq : Real.sin θ ^ 2 = ((y * y : ℕ) : ℝ) / ((x * x + y * y : ℕ) : ℝ) := by
    rw [hθ, Real.sin_sq, Real.cos_sq_arctan]
    push_cast
    field_simp
    ring
  have hsc : Real.sin θ * Real.cos θ = ((x * y : ℕ) : ℝ) / ((x * x + y * y : ℕ) : ℝ) := by
    have hc : Real.cos θ ≠ 0 := (Real.cos_arctan_pos _).ne'
    have : Real.sin θ = y / x * Real.cos θ := by
      have := Real.tan_arctan ((y : ℝ) / x)
      rw [← hθ, Real.tan_eq_sin_div_cos, div_eq_iff hc] at this
      exact this
    rw [this, mul_assoc, ← sq, hθ, Real.cos_sq_arctan]
    push_cast
    field_simp
  have hq2 : 2 * (y * y) ≤ x * x + y * y := by nlinarith [Nat.mul_le_mul h h]
  have hfloor : |((x * y * 2 ^ fixBits / (x * x + y * y) : ℕ) : ℝ) -
      2 ^ fixBits * (Real.sin θ ^ (2 * 0 + 1) * Real.cos θ / (2 * (0 : ℕ) + 1))| ≤ 2 := by
    have he : 2 ^ fixBits * (Real.sin θ ^ (2 * 0 + 1) * Real.cos θ / (2 * ((0 : ℕ) : ℝ) + 1)) =
        ((x * y * 2 ^ fixBits : ℕ) : ℝ) / ((x * x + y * y : ℕ) : ℝ) := by
      simp only [mul_zero, zero_add, pow_one, Nat.cast_zero, div_one]
      rw [hsc]
      push_cast
      ring
    rw [he]
    have hlo := Nat.floor_le (show 0 ≤ ((x * y * 2 ^ fixBits : ℕ) : ℝ) / ((x * x + y * y : ℕ) : ℝ) by positivity)
    have hhi := Nat.lt_floor_add_one (((x * y * 2 ^ fixBits : ℕ) : ℝ) / ((x * x + y * y : ℕ) : ℝ))
    rw [Nat.floor_div_eq_div] at hlo hhi
    rw [abs_le]
    constructor <;> linarith
  obtain ⟨D', hD0, hD1, hD2⟩ := atanSum_near hs hq2 hsq 210 0 _ (2 ^ fixBits) (by positivity) hfloor
  have hI0 : ∫ t in (0 : ℝ)..θ, Real.sin t ^ (2 * 0) = θ := by simp
  obtain ⟨hb0, hb1⟩ := integral_sin_bound h0 h1 hsq 210
  have hq : ((y * y : ℕ) : ℝ) / ((x * x + y * y : ℕ) : ℝ) ≤ 1 / 2 := by
    rw [div_le_div_iff₀ (by exact_mod_cast hs) (by norm_num)]
    have : (2 : ℝ) * ((y * y : ℕ) : ℝ) ≤ ((x * x + y * y : ℕ) : ℝ) := by exact_mod_cast hq2
    linarith
  have hb2 : (((y * y : ℕ) : ℝ) / ((x * x + y * y : ℕ) : ℝ)) ^ 210 ≤ (1 / 2) ^ 210 := pow_le_pow_left₀ (by positivity) hq 210
  rw [hI0, zero_add] at hD2
  have hrest : D' * ∫ t in (0 : ℝ)..θ, Real.sin t ^ (2 * 210) ≤ 1 := by
    have hD : D' ≤ 2 ^ fixBits * 211 := by push_cast at hD1; linarith
    calc D' * ∫ t in (0 : ℝ)..θ, Real.sin t ^ (2 * 210) ≤ 2 ^ fixBits * 211 * (1 / 2) ^ 210 :=
          mul_le_mul hD (hb1.trans hb2) hb0 (by positivity)
      _ ≤ 1 := by norm_num [fixBits]
  have hrest0 : 0 ≤ D' * ∫ t in (0 : ℝ)..θ, Real.sin t ^ (2 * 210) := mul_nonneg hD0 hb0
  rw [atanFix]
  push_cast at hD2
  rw [abs_le] at hD2 ⊢
  constructor <;> linarith

/-- `piFix` is π in units of `2^(−200)`, within 1688 units. -/
theorem piFix_near : |(piFix : ℝ) - Real.pi * 2 ^ fixBits| ≤ 1688 := by
  have h := atanFix_near (y := 1) (x := 1) (by decide) (by decide)
  rw [Nat.cast_one, div_one, Real.arctan_one] at h
  rw [piFix]
  push_cast
  rw [abs_le] at h ⊢
  constructor <;> linarith

end Sys2Proof.Machine
end

