-- ==== Sys2Proof/Laws/Cpr.lean ====
section
/-! SUPPORT. The transition latitudes of 48_cpr.md rule R807: the model's list against the table as the spec writes it. -/

namespace Sys2Proof.Machine

/-- The latitudes of the spec's table are those that the zone count compares with. -/
theorem transitions_latitudes : transitions.map Prod.snd = (phiHigh ++ phiLow).map fun phi => (phi : ℚ) / 10 ^ 18 := by
  norm_num [transitions, transitionsHigh, transitionsLow, phiHigh, phiLow]

/-- Row `k` of the table is `n = 59 − k`. -/
theorem transitions_rows : transitions.map Prod.fst = (List.range 57).map (59 - ·) := by
  simp only [transitions, transitionsHigh, transitionsLow, List.map_append, List.map_cons, List.map_nil]
  decide

end Sys2Proof.Machine
end

