-- ==== Sys2Proof/Laws/Decode.lean ====
section
/-! SUPPORT. The field readers of the decoder read back what the field writers of the encoder wrote. -/

namespace Sys2Proof

@[simp] theorem toBE_length (n v : Nat) : (toBE n v).length = n := by
  induction n generalizing v with
  | zero => rfl
  | succ n ih => simp [toBE, ih]

theorem beNat_append (bs : List Byte) (b : Byte) : beNat (bs ++ [b]) = beNat bs * 256 + b.toNat := by
  simp [beNat]

theorem beNat_toBE (n v : Nat) : beNat (toBE n v) = v % 256 ^ n := by
  induction n generalizing v with
  | zero => simp [toBE, beNat, Nat.mod_one]
  | succ n ih =>
    rw [toBE, beNat_append, ih, BitVec.toNat_ofNat, show 256 ^ (n + 1) = 256 * 256 ^ n from pow_succ' 256 n, Nat.mod_mul]
    omega

@[simp] theorem takeBE_toBE (n v : Nat) (rest : List Byte) : takeBE n (toBE n v ++ rest) = some (v % 256 ^ n, rest) := by
  unfold takeBE
  rw [if_pos (by simp), List.take_left' (toBE_length n v), List.drop_left' (toBE_length n v), beNat_toBE]

/-- A field of `w` bits, `w` a multiple of 8, is read back, whatever follows it. -/
theorem takeField_toBE {w n : Nat} (h : w = 8 * n) (v : BitVec w) (rest : List Byte) :
    takeField w (toBE n v.toNat ++ rest) = some (v, rest) := by
  have hn : w / 8 = n := by omega
  have hlt : v.toNat < 256 ^ n := by
    have := v.isLt
    rwa [show (256 : Nat) ^ n = 2 ^ w by rw [h, pow_mul]; norm_num]
  simp only [takeField, hn, takeBE_toBE, Option.map_some, Nat.mod_eq_of_lt hlt, BitVec.ofNat_toNat, BitVec.setWidth_eq]

@[simp] theorem takeField64_toBE (v : BitVec 64) (rest : List Byte) :
    takeField 64 (toBE 8 v.toNat ++ rest) = some (v, rest) :=
  takeField_toBE (n := 8) (by decide) v rest

@[simp] theorem takeField32_toBE (v : BitVec 32) (rest : List Byte) :
    takeField 32 (toBE 4 v.toNat ++ rest) = some (v, rest) :=
  takeField_toBE (n := 4) (by decide) v rest

@[simp] theorem takeField24_toBE (v : BitVec 24) (rest : List Byte) :
    takeField 24 (toBE 3 v.toNat ++ rest) = some (v, rest) :=
  takeField_toBE (n := 3) (by decide) v rest

@[simp] theorem takeField16_toBE (v : BitVec 16) (rest : List Byte) :
    takeField 16 (toBE 2 v.toNat ++ rest) = some (v, rest) :=
  takeField_toBE (n := 2) (by decide) v rest

@[simp] theorem takeField8_toBE (v : BitVec 8) (rest : List Byte) :
    takeField 8 (toBE 1 v.toNat ++ rest) = some (v, rest) :=
  takeField_toBE (n := 1) (by decide) v rest

/-- A `seq` operand that fits its length byte is read back. -/
theorem takeSeq_encodeSeq {seq : List Byte} (h : seq.length ≤ Config.maxSeq) (rest : List Byte) :
    takeSeq (encodeSeq seq ++ rest) = some (seq, rest) := by
  have hlen : (BitVec.ofNat 8 seq.length).toNat = seq.length := by
    rw [BitVec.toNat_ofNat, Nat.mod_eq_of_lt]
    exact lt_of_le_of_lt h (by decide)
  simp [encodeSeq, takeSeq, hlen]

end Sys2Proof
end

