-- ==== Sys2Proof/Laws/Stream.lean ====
section
/-! SUPPORT. The sample stream: the three answers of `need`, when several power samples can be had, that a sample depends only on
its own bytes, and everything that one scan position can do. -/

namespace Sys2Proof.Machine

/-- A raw word is its two bytes, the low byte first (R501). -/
theorem rawWord_eq (src : List Byte) (n : Nat) : rawWord src n = srcByte src (2 * n) + 256 * srcByte src (2 * n + 1) := by
  have h : srcByte src (2 * n) < 2 ^ 8 := BitVec.isLt _
  rw [rawWord, Nat.or_comm, ← Nat.shiftLeft_add_eq_or_of_lt h, Nat.shiftLeft_eq]
  omega

/-- Every counted power sample has been delivered whole. -/
theorem four_mul_powerCount_le (src : List Byte) : 4 * powerCount src ≤ src.length := by
  unfold powerCount
  omega

/-- Later bytes take no power sample away. -/
theorem powerCount_append_le (src bs : List Byte) : powerCount src ≤ powerCount (src ++ bs) := by
  unfold powerCount
  rw [List.length_append]
  omega

/-- `need(k)` of a power sample that has been delivered and whose raw words are legal. -/
theorem need_value {src : List Byte} {k : Nat} (h : k < powerCount src) (hb : badSample src k = none) (eos : Bool) :
    need src eos k = .value (power src k) := by
  simp [need, Nat.not_le.mpr h, hb]

/-- `need(k)` of a power sample that has been delivered and has an illegal raw word. -/
theorem need_bad {src : List Byte} {k n : Nat} (h : k < powerCount src) (hb : badSample src k = some n) (eos : Bool) :
    need src eos k = .bad n (rawWord src n) := by
  simp [need, Nat.not_le.mpr h, hb]

theorem need_absent {src : List Byte} {k : Nat} (h : powerCount src ≤ k) : need src true k = .absent := by
  simp [need, h]

theorem need_wait {src : List Byte} {k : Nat} (h : powerCount src ≤ k) : need src false k = .wait := by
  simp [need, h]

/-- A wait happens only before end-of-stream. -/
theorem need_ne_wait_of_eos (src : List Byte) (k : Nat) : need src true k ≠ .wait := by
  unfold need
  split
  · simp
  · split <;> simp

/-- Several power samples can be had exactly when each can. -/
theorem needAll_done_iff (src : List Byte) (eos : Bool) (ks : List Nat) :
    needAll src eos ks = .done () ↔ ∀ k ∈ ks, ∃ v, need src eos k = .value v := by
  induction ks with
  | nil => simp [needAll]
  | cons k ks ih =>
    simp only [needAll, List.mem_cons, forall_eq_or_imp]
    cases hk : need src eos k <;> simp [Need.run, ih]

theorem needAll_ne_wait_of_eos (src : List Byte) (ks : List Nat) : needAll src true ks ≠ .wait := by
  induction ks with
  | nil => simp [needAll]
  | cons k ks ih =>
    simp only [needAll]
    cases hk : need src true k
    · exact absurd hk (need_ne_wait_of_eos src k)
    · simp [Need.run]
    · simp [Need.run]
    · simpa [Need.run] using ih

/-- Bytes of a longer stream. -/
theorem srcByte_append_left {src : List Byte} {n : Nat} (h : n < src.length) (bs : List Byte) :
    srcByte (src ++ bs) n = srcByte src n := by
  simp [srcByte, List.getD_eq_getElem?_getD, List.getElem?_append_left h]

theorem srcByte_append_right (pre : List Byte) (bs : List Byte) (n : Nat) :
    srcByte (pre ++ bs) (pre.length + n) = srcByte bs n := by
  simp [srcByte, List.getD_eq_getElem?_getD, List.getElem?_append_right]

/-- A stream given by a function: byte `n` is `f n`. -/
theorem srcByte_map_range (f : Nat → Byte) (len n : Nat) :
    srcByte ((List.range len).map f) n = if n < len then (f n).toNat else 0 := by
  unfold srcByte
  rw [List.getD_eq_getElem?_getD, List.getElem?_map]
  by_cases h : n < len <;> simp [h]

/-- Everything that one scan position can do (R610). -/
theorem examine_cases {src : List Byte} {eos : Bool} {sp : Config.SkipPrev} {p : Nat} {prev : Prev} {e : Exam}
    (h : examine src eos sp p prev = .done e) :
    needAll src eos (preambleReads sp p prev) = .done () ∧
    ((accepts src p (resolvePrev src sp p prev) = false ∧ e = .rejected (score src p) (p + 47)) ∨
      (accepts src p (resolvePrev src sp p prev) = true ∧ needAll src eos (byteReads p 0) = .done () ∧
        ((frameSize (sliceByte src p 0) ≠ Config.frameBytes ∧ e = .rejected (score src p) (p + 156)) ∨
          (frameSize (sliceByte src p 0) = Config.frameBytes ∧
            needAll src eos ((List.range 13).flatMap fun m => byteReads p (m + 1)) = .done () ∧
            ((crcBytes ((List.range Config.frameBytes).map (sliceByte src p)) = 0#24 ∧
                e = .found ((List.range Config.frameBytes).map (sliceByte src p)) (p + 1196)) ∨
              (crcBytes ((List.range Config.frameBytes).map (sliceByte src p)) ≠ 0#24 ∧
                e = .rejected (score src p) (p + 1196))))))) := by
  unfold examine at h
  split at h
  · cases h
  · cases h
  · next _ hpre =>
    refine ⟨hpre, ?_⟩
    split at h
    · next hacc =>
      refine .inr ⟨hacc, ?_⟩
      split at h
      · cases h
      · cases h
      · next _ hb0 =>
        refine ⟨hb0, ?_⟩
        split at h
        · next hsize =>
          split at h
          · cases h
          · cases h
          · next _ hrest =>
            refine .inr ⟨hsize, hrest, ?_⟩
            dsimp only at h
            split at h
            · next hcrc => exact .inl ⟨hcrc, by cases h; rfl⟩
            · next hcrc => exact .inr ⟨hcrc, by cases h; rfl⟩
        · next hsize => exact .inl ⟨hsize, by cases h; rfl⟩
    · next hacc => exact .inl ⟨by simpa using hacc, by cases h; rfl⟩

/-- Windows that are full: the count that drives the scan is 0 exactly when the window at `p` is not full. -/
theorem fullPositions_eq_zero_iff (src : List Byte) (p : Nat) :
    fullPositions src p = 0 ↔ powerCount src < p + 1200 := by
  unfold fullPositions Config.window
  omega

theorem fullPositions_succ {src : List Byte} {p n : Nat} (h : fullPositions src p = n + 1) :
    fullPositions src (p + 1) = n := by
  unfold fullPositions at *
  omega

/-- A command goes on only with a power sample that has been delivered. -/
theorem needRun_done {s : State} {k v : Nat} (h : s.needRun k = .done v) : k < powerCount s.src ∧ v = power s.src k := by
  unfold State.needRun need at h
  split at h
  · cases hs : s.eos <;> simp [hs, Need.run] at h
  · next hk =>
    split at h
    · simp [Need.run] at h
    · exact ⟨Nat.not_le.mp hk, by simpa [Need.run] using h.symm⟩

/-- Everything that an advance can do when its power sample can be had (R553, R101). -/
theorem advanceRun_of_value {s : State} {v : Nat} (h : s.needRun s.wpos.toNat = .done v) :
    advanceRun s = if lastEdge s.wpos.toNat then .fault .tsOverflow s.wpos
      else .done { s.take s.wpos.toNat with wpos := s.wpos + 1#64, dprev := .stale } := by
  rw [advanceRun, h]

/-- A successful advance stands on a delivered power sample, and the left edge does not wrap. -/
theorem advanceRun_done {s t : State} (h : advanceRun s = .done t) :
    t = { s.take s.wpos.toNat with wpos := s.wpos + 1#64, dprev := .stale } ∧ s.wpos.toNat < powerCount s.src ∧
      t.wpos.toNat = s.wpos.toNat + 1 := by
  cases hv : s.needRun s.wpos.toNat with
  | done v =>
    rw [advanceRun_of_value hv] at h
    split at h
    · cases h
    · next hlast =>
      cases h
      refine ⟨rfl, (needRun_done hv).1, ?_⟩
      show (s.wpos + 1#64).toNat = _
      rw [BitVec.toNat_add, BitVec.toNat_ofNat]
      omega
  | fault c info => simp [advanceRun, hv] at h
  | wait => simp [advanceRun, hv] at h

end Sys2Proof.Machine
end

