-- ==== Sys2Proof/Laws/Demodulator.lean ====
section
/-! SUPPORT. The demodulator on a stream whose raw words are all legal: power samples from a function that gives the bytes, and one
scan position without any reading left in it. -/

namespace Sys2Proof.Machine

/-- Power sample `k` of a stream whose byte `n` is `g n`. -/
def powerOfBytes (g : Nat → Nat) (k : Nat) : Nat :=
  powerOf ((List.range 8).map fun (i : Nat) =>
    if 2 * (k : Int) - 6 + i < 0 then 0
    else ((g (2 * (2 * k + i - 6)) ||| g (2 * (2 * k + i - 6) + 1) <<< 8 : Nat) : Int) - Config.bias)

/-- A power sample depends only on its own bytes. -/
theorem power_congr {src : List Byte} {g : Nat → Nat} {k : Nat} (h : ∀ n, n < 4 * k + 4 → srcByte src n = g n) :
    power src k = powerOfBytes g k := by
  unfold power powerOfBytes powerSamples
  congr 1
  refine List.map_congr_left fun i hi => ?_
  have hi : i < 8 := List.mem_range.mp hi
  unfold sampleAt
  split
  · rfl
  · next hneg =>
    have hn : (2 * (k : Int) - 6 + i).toNat = 2 * k + i - 6 := by omega
    rw [rawWord, hn, h _ (by omega), h _ (by omega)]

/-- A later position in a stream: its power samples read the bytes from there. -/
theorem power_append {pre : List Byte} {q : Nat} (hpre : pre.length = 4 * q) (bs : List Byte) {k : Nat} (hk : 3 ≤ k) :
    power (pre ++ bs) (q + k) = power bs k := by
  unfold power powerSamples
  congr 1
  refine List.map_congr_left fun i hi => ?_
  have hi : i < 8 := List.mem_range.mp hi
  unfold sampleAt
  have h1 : ¬ 2 * ((q + k : Nat) : Int) - 6 + i < 0 := by omega
  have h2 : ¬ 2 * (k : Int) - 6 + i < 0 := by omega
  rw [if_neg h1, if_neg h2]
  have hn : (2 * ((q + k : Nat) : Int) - 6 + i).toNat = 2 * q + (2 * (k : Int) - 6 + i).toNat := by omega
  have hb : ∀ m, srcByte (pre ++ bs) (4 * q + m) = srcByte bs m := fun m => hpre ▸ srcByte_append_right pre bs m
  rw [hn, rawWord, rawWord,
    show 2 * (2 * q + (2 * (k : Int) - 6 + i).toNat) = 4 * q + 2 * (2 * (k : Int) - 6 + i).toNat by omega,
    show 4 * q + 2 * (2 * (k : Int) - 6 + i).toNat + 1 = 4 * q + (2 * (2 * (k : Int) - 6 + i).toNat + 1) by omega, hb, hb]

theorem badSample_eq_none {src : List Byte} (h : ∀ n, rawWord src n ≤ Config.sampleMax) (k : Nat) : badSample src k = none := by
  unfold badSample
  rw [List.findSome?_eq_none_iff]
  intro i _
  rw [if_neg]
  rintro ⟨_, hlt⟩
  exact absurd hlt (Nat.not_lt.mpr (h _))

theorem needAll_done {src : List Byte} (h : ∀ n, rawWord src n ≤ Config.sampleMax) (eos : Bool) {ks : List Nat}
    (hks : ∀ k ∈ ks, k < powerCount src) : needAll src eos ks = .done () :=
  (needAll_done_iff src eos ks).mpr fun k hk => ⟨_, need_value (hks k hk) (badSample_eq_none h k) eos⟩

/-- One scan position with a full window of legal samples. -/
theorem examine_of_legal {src : List Byte} (h : ∀ n, rawWord src n ≤ Config.sampleMax) (eos : Bool) (sp : Config.SkipPrev)
    {p : Nat} (hfull : p + 1200 ≤ powerCount src) (prev : Prev) :
    examine src eos sp p prev = .done
      (if accepts src p (resolvePrev src sp p prev) then
        if frameSize (sliceByte src p 0) = Config.frameBytes then
          if crcBytes ((List.range Config.frameBytes).map (sliceByte src p)) = 0#24 then
            .found ((List.range Config.frameBytes).map (sliceByte src p)) (p + 1196)
          else .rejected (score src p) (p + 1196)
        else .rejected (score src p) (p + 156)
      else .rejected (score src p) (p + 47)) := by
  have hpre : needAll src eos (preambleReads sp p prev) = .done () := by
    refine needAll_done h eos fun k hk => ?_
    have : k ≤ p + 46 := by
      simp only [preambleReads, resolveReads, Config.highOffs, Config.lowOffs, List.mem_append, List.mem_map, List.mem_cons,
        List.not_mem_nil, or_false] at hk
      rcases hk with ((hk | ⟨o, ho, rfl⟩) | ⟨o, ho, rfl⟩) | ⟨o, ho, rfl⟩
      · cases prev with
        | score v => simp at hk
        | stale =>
          simp only at hk
          split at hk
          · simp at hk
          · simp only [List.mem_map, List.mem_cons, List.not_mem_nil, or_false] at hk
            obtain ⟨o, ho, rfl⟩ := hk
            omega
      · omega
      · omega
      · omega
    omega
  have hbyte : ∀ m, m < 14 → ∀ k ∈ byteReads p m, k < powerCount src := by
    intro m hm k hk
    simp only [byteReads, bitReads, Config.bitBase, Config.bitPitch, Config.halfBit, List.mem_flatMap, List.mem_range,
      List.mem_cons, List.not_mem_nil, or_false] at hk
    obtain ⟨i, hi, rfl | rfl⟩ := hk <;> omega
  have hb0 : needAll src eos (byteReads p 0) = .done () := needAll_done h eos (hbyte 0 (by decide))
  have hrest : needAll src eos ((List.range 13).flatMap fun m => byteReads p (m + 1)) = .done () := by
    refine needAll_done h eos fun k hk => ?_
    obtain ⟨m, hm, hk⟩ := List.mem_flatMap.mp hk
    exact hbyte (m + 1) (by have := List.mem_range.mp hm; omega) k hk
  unfold examine
  simp only [hpre, hb0, hrest]
  split
  · split
    · split <;> rfl
    · rfl
  · rfl

/-- The scan passes a rejected position by, unless it is the last edge. -/
theorem scan_rejected {src : List Byte} {eos : Bool} {sp : Config.SkipPrev} {p : Nat} {prev : Prev} {cur t : Nat}
    (h : examine src eos sp p prev = .done (.rejected cur t)) (n taken : Nat) :
    scan src eos sp (n + 1) p prev taken =
      if lastEdge p then .fault .tsOverflow (BitVec.ofNat 64 p)
      else scan src eos sp n (p + 1) (.score (BitVec.ofNat 32 cur)) (max taken t) := by
  rw [scan, h]

/-- The scan ends at a frame, or with a fault if its timestamp leaves its width. -/
theorem scan_found {src : List Byte} {eos : Bool} {sp : Config.SkipPrev} {p : Nat} {prev : Prev} {bytes : List Byte} {t : Nat}
    (h : examine src eos sp p prev = .done (.found bytes t)) (n taken : Nat) :
    scan src eos sp (n + 1) p prev taken =
      if tsOverflows p then .fault .tsOverflow (BitVec.ofNat 64 p) else .done (.frame p bytes (max taken t)) := by
  rw [scan, h]

end Sys2Proof.Machine
end

