-- ==== Sys2Proof/Laws/PerInstr.lean ====
section
/-! SUPPORT. The statements made of every instruction as syntax, one lemma per constructor. `OpcodeByte`: the encoding of a
command begins with the opcode of its row, which is an opcode of the command table (R302). -/

namespace Sys2Proof.Laws.OpcodeByte

open Sys2Proof Sys2Proof.Machine

/-- What is said of an instruction: its encoding begins with its opcode, and the table has that opcode. -/
def Statement (i : Instr) : Prop := (encode i).head? = some (opcode i) ∧ (opcode i).toNat ∈ tableOpcodes

theorem bfExtract : ∀ value start size, Statement (.bfExtract value start size) := fun _ _ _ => ⟨rfl, by simp [opcode, tableOpcodes]⟩

theorem bfTestbit : ∀ value index, Statement (.bfTestbit value index) := fun _ _ => ⟨rfl, by simp [opcode, tableOpcodes]⟩

theorem bsRange : ∀ seq lo hi, Statement (.bsRange seq lo hi) := fun _ _ _ => ⟨rfl, by simp [opcode, tableOpcodes]⟩

theorem crcCompute : ∀ seq, Statement (.crcCompute seq) := fun _ => ⟨rfl, by simp [opcode, tableOpcodes]⟩

theorem crcCheck : ∀ seq, Statement (.crcCheck seq) := fun _ => ⟨rfl, by simp [opcode, tableOpcodes]⟩

theorem crcTable : ∀ index, Statement (.crcTable index) := fun _ => ⟨rfl, by simp [opcode, tableOpcodes]⟩

theorem scCondition : ∀ lo hi, Statement (.scCondition lo hi) := fun _ _ => ⟨rfl, by simp [opcode, tableOpcodes]⟩

theorem pePower : ∀ s0 s1 s2 s3 s4 s5 s6 s7, Statement (.pePower s0 s1 s2 s3 s4 s5 s6 s7) := fun _ _ _ _ _ _ _ _ => ⟨rfl, by simp [opcode, tableOpcodes]⟩

theorem winGet : ∀ i, Statement (.winGet i) := fun _ => ⟨rfl, by simp [opcode, tableOpcodes]⟩

theorem winAdvance : Statement (.winAdvance) := ⟨rfl, by simp [opcode, tableOpcodes]⟩

theorem winAdvanceby : ∀ n, Statement (.winAdvanceby n) := fun _ => ⟨rfl, by simp [opcode, tableOpcodes]⟩

theorem winIsfull : Statement (.winIsfull) := ⟨rfl, by simp [opcode, tableOpcodes]⟩

theorem winPosition : Statement (.winPosition) := ⟨rfl, by simp [opcode, tableOpcodes]⟩

theorem demSize : ∀ byte0, Statement (.demSize byte0) := fun _ => ⟨rfl, by simp [opcode, tableOpcodes]⟩

theorem demNext : Statement (.demNext) := ⟨rfl, by simp [opcode, tableOpcodes]⟩

theorem frmInject : ∀ ts frame, Statement (.frmInject ts frame) := fun _ _ => ⟨rfl, by simp [opcode, tableOpcodes]⟩

theorem frmTs : Statement (.frmTs) := ⟨rfl, by simp [opcode, tableOpcodes]⟩

theorem frmDf : Statement (.frmDf) := ⟨rfl, by simp [opcode, tableOpcodes]⟩

theorem frmCa : Statement (.frmCa) := ⟨rfl, by simp [opcode, tableOpcodes]⟩

theorem frmIcao : Statement (.frmIcao) := ⟨rfl, by simp [opcode, tableOpcodes]⟩

theorem frmMe : Statement (.frmMe) := ⟨rfl, by simp [opcode, tableOpcodes]⟩

theorem frmTc : Statement (.frmTc) := ⟨rfl, by simp [opcode, tableOpcodes]⟩

theorem frmBytes : Statement (.frmBytes) := ⟨rfl, by simp [opcode, tableOpcodes]⟩

theorem msgDecode : Statement (.msgDecode) := ⟨rfl, by simp [opcode, tableOpcodes]⟩

theorem altDecode : ∀ alt12, Statement (.altDecode alt12) := fun _ => ⟨rfl, by simp [opcode, tableOpcodes]⟩

theorem grayDecode : ∀ v n, Statement (.grayDecode v n) := fun _ _ => ⟨rfl, by simp [opcode, tableOpcodes]⟩

theorem csChar : ∀ code, Statement (.csChar code) := fun _ => ⟨rfl, by simp [opcode, tableOpcodes]⟩

theorem cprMerge : ∀ x0 y0 x1 y1 recent, Statement (.cprMerge x0 y0 x1 y1 recent) := fun _ _ _ _ _ => ⟨rfl, by simp [opcode, tableOpcodes]⟩

theorem trkUpdate : ∀ msg, Statement (.trkUpdate msg) := fun _ => ⟨rfl, by simp [opcode, tableOpcodes]⟩

theorem trkPurge : ∀ now, Statement (.trkPurge now) := fun _ => ⟨rfl, by simp [opcode, tableOpcodes]⟩

theorem trkRead : ∀ icao, Statement (.trkRead icao) := fun _ => ⟨rfl, by simp [opcode, tableOpcodes]⟩

theorem trkLast : Statement (.trkLast) := ⟨rfl, by simp [opcode, tableOpcodes]⟩

theorem evPop : Statement (.evPop) := ⟨rfl, by simp [opcode, tableOpcodes]⟩

theorem pipeStep : Statement (.pipeStep) := ⟨rfl, by simp [opcode, tableOpcodes]⟩

theorem blkReset : Statement (.blkReset) := ⟨rfl, by simp [opcode, tableOpcodes]⟩

theorem blkStatus : Statement (.blkStatus) := ⟨rfl, by simp [opcode, tableOpcodes]⟩

theorem blkConfig : ∀ n, Statement (.blkConfig n) := fun _ => ⟨rfl, by simp [opcode, tableOpcodes]⟩

end Sys2Proof.Laws.OpcodeByte
end

