-- ==== Sys2Proof/Laws/State.lean ====
section
/-! SUPPORT. One lemma per field for each named update of the state, true by definition, so that no proof unfolds a record
update; and what each shared operation over the state can do. -/

namespace Sys2Proof.Machine

/-! ## `State.respond` -/

@[simp] theorem respond_faulted (s : State) (o : RespOutcome) (v : Value) : (s.respond o v).faulted = s.faulted := rfl
@[simp] theorem respond_eos (s : State) (o : RespOutcome) (v : Value) : (s.respond o v).eos = s.eos := rfl
@[simp] theorem respond_cause (s : State) (o : RespOutcome) (v : Value) : (s.respond o v).cause = s.cause := rfl
@[simp] theorem respond_faultInfo (s : State) (o : RespOutcome) (v : Value) : (s.respond o v).faultInfo = s.faultInfo := rfl
@[simp] theorem respond_cfg (s : State) (o : RespOutcome) (v : Value) : (s.respond o v).cfg = s.cfg := rfl
@[simp] theorem respond_src (s : State) (o : RespOutcome) (v : Value) : (s.respond o v).src = s.src := rfl
@[simp] theorem respond_taken (s : State) (o : RespOutcome) (v : Value) : (s.respond o v).taken = s.taken := rfl
@[simp] theorem respond_wpos (s : State) (o : RespOutcome) (v : Value) : (s.respond o v).wpos = s.wpos := rfl
@[simp] theorem respond_dprev (s : State) (o : RespOutcome) (v : Value) : (s.respond o v).dprev = s.dprev := rfl
@[simp] theorem respond_dstate (s : State) (o : RespOutcome) (v : Value) : (s.respond o v).dstate = s.dstate := rfl
@[simp] theorem respond_frame (s : State) (o : RespOutcome) (v : Value) : (s.respond o v).frame = s.frame := rfl
@[simp] theorem respond_table (s : State) (o : RespOutcome) (v : Value) : (s.respond o v).table = s.table := rfl
@[simp] theorem respond_lastNs (s : State) (o : RespOutcome) (v : Value) : (s.respond o v).lastNs = s.lastNs := rfl
@[simp] theorem respond_ev (s : State) (o : RespOutcome) (v : Value) : (s.respond o v).ev = s.ev := rfl
@[simp] theorem respond_pending (s : State) (o : RespOutcome) (v : Value) : (s.respond o v).pending = s.pending := rfl
@[simp] theorem respond_inbox (s : State) (o : RespOutcome) (v : Value) : (s.respond o v).inbox = s.inbox := rfl
@[simp] theorem respond_resp (s : State) (o : RespOutcome) (v : Value) : (s.respond o v).resp = some (.normal o v) := rfl

/-! ## `State.raiseFault` -/

@[simp] theorem raiseFault_faulted (s : State) (c : Cause) (info : BitVec 64) : (s.raiseFault c info).faulted = true := rfl
@[simp] theorem raiseFault_eos (s : State) (c : Cause) (info : BitVec 64) : (s.raiseFault c info).eos = s.eos := rfl
@[simp] theorem raiseFault_cause (s : State) (c : Cause) (info : BitVec 64) : (s.raiseFault c info).cause = c.code := rfl
@[simp] theorem raiseFault_faultInfo (s : State) (c : Cause) (info : BitVec 64) : (s.raiseFault c info).faultInfo = info := rfl
@[simp] theorem raiseFault_cfg (s : State) (c : Cause) (info : BitVec 64) : (s.raiseFault c info).cfg = s.cfg := rfl
@[simp] theorem raiseFault_src (s : State) (c : Cause) (info : BitVec 64) : (s.raiseFault c info).src = s.src := rfl
@[simp] theorem raiseFault_taken (s : State) (c : Cause) (info : BitVec 64) : (s.raiseFault c info).taken = s.taken := rfl
@[simp] theorem raiseFault_wpos (s : State) (c : Cause) (info : BitVec 64) : (s.raiseFault c info).wpos = s.wpos := rfl
@[simp] theorem raiseFault_dprev (s : State) (c : Cause) (info : BitVec 64) : (s.raiseFault c info).dprev = s.dprev := rfl
@[simp] theorem raiseFault_dstate (s : State) (c : Cause) (info : BitVec 64) : (s.raiseFault c info).dstate = s.dstate := rfl
@[simp] theorem raiseFault_frame (s : State) (c : Cause) (info : BitVec 64) : (s.raiseFault c info).frame = s.frame := rfl
@[simp] theorem raiseFault_table (s : State) (c : Cause) (info : BitVec 64) : (s.raiseFault c info).table = s.table := rfl
@[simp] theorem raiseFault_lastNs (s : State) (c : Cause) (info : BitVec 64) : (s.raiseFault c info).lastNs = s.lastNs := rfl
@[simp] theorem raiseFault_ev (s : State) (c : Cause) (info : BitVec 64) : (s.raiseFault c info).ev = s.ev := rfl
@[simp] theorem raiseFault_pending (s : State) (c : Cause) (info : BitVec 64) : (s.raiseFault c info).pending = s.pending := rfl
@[simp] theorem raiseFault_inbox (s : State) (c : Cause) (info : BitVec 64) : (s.raiseFault c info).inbox = s.inbox := rfl
@[simp] theorem raiseFault_resp (s : State) (c : Cause) (info : BitVec 64) : (s.raiseFault c info).resp = some (.fault c info) := rfl

/-! ## `State.respondRefused` -/

@[simp] theorem respondRefused_faulted (s : State) : s.respondRefused.faulted = s.faulted := rfl
@[simp] theorem respondRefused_eos (s : State) : s.respondRefused.eos = s.eos := rfl
@[simp] theorem respondRefused_cause (s : State) : s.respondRefused.cause = s.cause := rfl
@[simp] theorem respondRefused_faultInfo (s : State) : s.respondRefused.faultInfo = s.faultInfo := rfl
@[simp] theorem respondRefused_cfg (s : State) : s.respondRefused.cfg = s.cfg := rfl
@[simp] theorem respondRefused_src (s : State) : s.respondRefused.src = s.src := rfl
@[simp] theorem respondRefused_taken (s : State) : s.respondRefused.taken = s.taken := rfl
@[simp] theorem respondRefused_wpos (s : State) : s.respondRefused.wpos = s.wpos := rfl
@[simp] theorem respondRefused_dprev (s : State) : s.respondRefused.dprev = s.dprev := rfl
@[simp] theorem respondRefused_dstate (s : State) : s.respondRefused.dstate = s.dstate := rfl
@[simp] theorem respondRefused_frame (s : State) : s.respondRefused.frame = s.frame := rfl
@[simp] theorem respondRefused_table (s : State) : s.respondRefused.table = s.table := rfl
@[simp] theorem respondRefused_lastNs (s : State) : s.respondRefused.lastNs = s.lastNs := rfl
@[simp] theorem respondRefused_ev (s : State) : s.respondRefused.ev = s.ev := rfl
@[simp] theorem respondRefused_pending (s : State) : s.respondRefused.pending = s.pending := rfl
@[simp] theorem respondRefused_inbox (s : State) : s.respondRefused.inbox = s.inbox := rfl
@[simp] theorem respondRefused_resp (s : State) : s.respondRefused.resp = some .refused := rfl

/-! ## `State.hold` -/

@[simp] theorem hold_faulted (s : State) (i : Instr) : (s.hold i).faulted = s.faulted := rfl
@[simp] theorem hold_eos (s : State) (i : Instr) : (s.hold i).eos = s.eos := rfl
@[simp] theorem hold_cause (s : State) (i : Instr) : (s.hold i).cause = s.cause := rfl
@[simp] theorem hold_faultInfo (s : State) (i : Instr) : (s.hold i).faultInfo = s.faultInfo := rfl
@[simp] theorem hold_cfg (s : State) (i : Instr) : (s.hold i).cfg = s.cfg := rfl
@[simp] theorem hold_src (s : State) (i : Instr) : (s.hold i).src = s.src := rfl
@[simp] theorem hold_taken (s : State) (i : Instr) : (s.hold i).taken = s.taken := rfl
@[simp] theorem hold_wpos (s : State) (i : Instr) : (s.hold i).wpos = s.wpos := rfl
@[simp] theorem hold_dprev (s : State) (i : Instr) : (s.hold i).dprev = s.dprev := rfl
@[simp] theorem hold_dstate (s : State) (i : Instr) : (s.hold i).dstate = s.dstate := rfl
@[simp] theorem hold_frame (s : State) (i : Instr) : (s.hold i).frame = s.frame := rfl
@[simp] theorem hold_table (s : State) (i : Instr) : (s.hold i).table = s.table := rfl
@[simp] theorem hold_lastNs (s : State) (i : Instr) : (s.hold i).lastNs = s.lastNs := rfl
@[simp] theorem hold_ev (s : State) (i : Instr) : (s.hold i).ev = s.ev := rfl
@[simp] theorem hold_pending (s : State) (i : Instr) : (s.hold i).pending = some i := rfl
@[simp] theorem hold_inbox (s : State) (i : Instr) : (s.hold i).inbox = s.inbox := rfl
@[simp] theorem hold_resp (s : State) (i : Instr) : (s.hold i).resp = none := rfl

/-! ## `State.take` -/

@[simp] theorem take_faulted (s : State) (k : Nat) : (s.take k).faulted = s.faulted := rfl
@[simp] theorem take_eos (s : State) (k : Nat) : (s.take k).eos = s.eos := rfl
@[simp] theorem take_cause (s : State) (k : Nat) : (s.take k).cause = s.cause := rfl
@[simp] theorem take_faultInfo (s : State) (k : Nat) : (s.take k).faultInfo = s.faultInfo := rfl
@[simp] theorem take_cfg (s : State) (k : Nat) : (s.take k).cfg = s.cfg := rfl
@[simp] theorem take_src (s : State) (k : Nat) : (s.take k).src = s.src := rfl
@[simp] theorem take_taken (s : State) (k : Nat) : (s.take k).taken = max s.taken (k + 1) := rfl
@[simp] theorem take_wpos (s : State) (k : Nat) : (s.take k).wpos = s.wpos := rfl
@[simp] theorem take_dprev (s : State) (k : Nat) : (s.take k).dprev = s.dprev := rfl
@[simp] theorem take_dstate (s : State) (k : Nat) : (s.take k).dstate = s.dstate := rfl
@[simp] theorem take_frame (s : State) (k : Nat) : (s.take k).frame = s.frame := rfl
@[simp] theorem take_table (s : State) (k : Nat) : (s.take k).table = s.table := rfl
@[simp] theorem take_lastNs (s : State) (k : Nat) : (s.take k).lastNs = s.lastNs := rfl
@[simp] theorem take_ev (s : State) (k : Nat) : (s.take k).ev = s.ev := rfl
@[simp] theorem take_pending (s : State) (k : Nat) : (s.take k).pending = s.pending := rfl
@[simp] theorem take_inbox (s : State) (k : Nat) : (s.take k).inbox = s.inbox := rfl
@[simp] theorem take_resp (s : State) (k : Nat) : (s.take k).resp = s.resp := rfl

/-! ## `State.emit` -/

@[simp] theorem emit_faulted (s : State) (e : Event) : (s.emit e).faulted = s.faulted := rfl
@[simp] theorem emit_eos (s : State) (e : Event) : (s.emit e).eos = s.eos := rfl
@[simp] theorem emit_cause (s : State) (e : Event) : (s.emit e).cause = s.cause := rfl
@[simp] theorem emit_faultInfo (s : State) (e : Event) : (s.emit e).faultInfo = s.faultInfo := rfl
@[simp] theorem emit_cfg (s : State) (e : Event) : (s.emit e).cfg = s.cfg := rfl
@[simp] theorem emit_src (s : State) (e : Event) : (s.emit e).src = s.src := rfl
@[simp] theorem emit_taken (s : State) (e : Event) : (s.emit e).taken = s.taken := rfl
@[simp] theorem emit_wpos (s : State) (e : Event) : (s.emit e).wpos = s.wpos := rfl
@[simp] theorem emit_dprev (s : State) (e : Event) : (s.emit e).dprev = s.dprev := rfl
@[simp] theorem emit_dstate (s : State) (e : Event) : (s.emit e).dstate = s.dstate := rfl
@[simp] theorem emit_frame (s : State) (e : Event) : (s.emit e).frame = s.frame := rfl
@[simp] theorem emit_table (s : State) (e : Event) : (s.emit e).table = s.table := rfl
@[simp] theorem emit_lastNs (s : State) (e : Event) : (s.emit e).lastNs = s.lastNs := rfl
@[simp] theorem emit_ev (s : State) (e : Event) : (s.emit e).ev = s.ev ++ [e] := rfl
@[simp] theorem emit_pending (s : State) (e : Event) : (s.emit e).pending = s.pending := rfl
@[simp] theorem emit_inbox (s : State) (e : Event) : (s.emit e).inbox = s.inbox := rfl
@[simp] theorem emit_resp (s : State) (e : Event) : (s.emit e).resp = s.resp := rfl

/-! ## `State.signalEos` -/

@[simp] theorem signalEos_faulted (s : State) : s.signalEos.faulted = s.faulted := rfl
@[simp] theorem signalEos_eos (s : State) : s.signalEos.eos = true := rfl
@[simp] theorem signalEos_cause (s : State) : s.signalEos.cause = s.cause := rfl
@[simp] theorem signalEos_faultInfo (s : State) : s.signalEos.faultInfo = s.faultInfo := rfl
@[simp] theorem signalEos_cfg (s : State) : s.signalEos.cfg = s.cfg := rfl
@[simp] theorem signalEos_src (s : State) : s.signalEos.src = s.src := rfl
@[simp] theorem signalEos_taken (s : State) : s.signalEos.taken = s.taken := rfl
@[simp] theorem signalEos_wpos (s : State) : s.signalEos.wpos = s.wpos := rfl
@[simp] theorem signalEos_dprev (s : State) : s.signalEos.dprev = s.dprev := rfl
@[simp] theorem signalEos_dstate (s : State) : s.signalEos.dstate = s.dstate := rfl
@[simp] theorem signalEos_frame (s : State) : s.signalEos.frame = s.frame := rfl
@[simp] theorem signalEos_table (s : State) : s.signalEos.table = s.table := rfl
@[simp] theorem signalEos_lastNs (s : State) : s.signalEos.lastNs = s.lastNs := rfl
@[simp] theorem signalEos_ev (s : State) : s.signalEos.ev = s.ev := rfl
@[simp] theorem signalEos_pending (s : State) : s.signalEos.pending = s.pending := rfl
@[simp] theorem signalEos_inbox (s : State) : s.signalEos.inbox = s.inbox := rfl
@[simp] theorem signalEos_resp (s : State) : s.signalEos.resp = s.resp := rfl

/-! ## `State.resetAll` -/

@[simp] theorem resetAll_faulted (s : State) : s.resetAll.faulted = State.reset.faulted := rfl
@[simp] theorem resetAll_eos (s : State) : s.resetAll.eos = State.reset.eos := rfl
@[simp] theorem resetAll_cause (s : State) : s.resetAll.cause = State.reset.cause := rfl
@[simp] theorem resetAll_faultInfo (s : State) : s.resetAll.faultInfo = State.reset.faultInfo := rfl
@[simp] theorem resetAll_cfg (s : State) : s.resetAll.cfg = s.cfg := rfl
@[simp] theorem resetAll_src (s : State) : s.resetAll.src = State.reset.src := rfl
@[simp] theorem resetAll_taken (s : State) : s.resetAll.taken = State.reset.taken := rfl
@[simp] theorem resetAll_wpos (s : State) : s.resetAll.wpos = State.reset.wpos := rfl
@[simp] theorem resetAll_dprev (s : State) : s.resetAll.dprev = State.reset.dprev := rfl
@[simp] theorem resetAll_dstate (s : State) : s.resetAll.dstate = State.reset.dstate := rfl
@[simp] theorem resetAll_frame (s : State) : s.resetAll.frame = State.reset.frame := rfl
@[simp] theorem resetAll_table (s : State) : s.resetAll.table = State.reset.table := rfl
@[simp] theorem resetAll_lastNs (s : State) : s.resetAll.lastNs = State.reset.lastNs := rfl
@[simp] theorem resetAll_ev (s : State) : s.resetAll.ev = State.reset.ev := rfl
@[simp] theorem resetAll_pending (s : State) : s.resetAll.pending = State.reset.pending := rfl
@[simp] theorem resetAll_inbox (s : State) : s.resetAll.inbox = s.inbox := rfl
@[simp] theorem resetAll_resp (s : State) : s.resetAll.resp = State.reset.resp := rfl

/-! ## `State.deliver` -/

theorem deliver_eq (s : State) (bs : List Byte) : s.deliver bs = { s with src := if s.eos then s.src else s.src ++ bs } := by
  obtain ⟨f, e⟩ := s; cases e <;> rfl

@[simp] theorem deliver_faulted (s : State) (bs : List Byte) : (s.deliver bs).faulted = s.faulted := by rw [deliver_eq]
@[simp] theorem deliver_eos (s : State) (bs : List Byte) : (s.deliver bs).eos = s.eos := by rw [deliver_eq]
@[simp] theorem deliver_cause (s : State) (bs : List Byte) : (s.deliver bs).cause = s.cause := by rw [deliver_eq]
@[simp] theorem deliver_faultInfo (s : State) (bs : List Byte) : (s.deliver bs).faultInfo = s.faultInfo := by rw [deliver_eq]
@[simp] theorem deliver_cfg (s : State) (bs : List Byte) : (s.deliver bs).cfg = s.cfg := by rw [deliver_eq]
@[simp] theorem deliver_src (s : State) (bs : List Byte) : (s.deliver bs).src = if s.eos then s.src else s.src ++ bs := by rw [deliver_eq]
@[simp] theorem deliver_taken (s : State) (bs : List Byte) : (s.deliver bs).taken = s.taken := by rw [deliver_eq]
@[simp] theorem deliver_wpos (s : State) (bs : List Byte) : (s.deliver bs).wpos = s.wpos := by rw [deliver_eq]
@[simp] theorem deliver_dprev (s : State) (bs : List Byte) : (s.deliver bs).dprev = s.dprev := by rw [deliver_eq]
@[simp] theorem deliver_dstate (s : State) (bs : List Byte) : (s.deliver bs).dstate = s.dstate := by rw [deliver_eq]
@[simp] theorem deliver_frame (s : State) (bs : List Byte) : (s.deliver bs).frame = s.frame := by rw [deliver_eq]
@[simp] theorem deliver_table (s : State) (bs : List Byte) : (s.deliver bs).table = s.table := by rw [deliver_eq]
@[simp] theorem deliver_lastNs (s : State) (bs : List Byte) : (s.deliver bs).lastNs = s.lastNs := by rw [deliver_eq]
@[simp] theorem deliver_ev (s : State) (bs : List Byte) : (s.deliver bs).ev = s.ev := by rw [deliver_eq]
@[simp] theorem deliver_pending (s : State) (bs : List Byte) : (s.deliver bs).pending = s.pending := by rw [deliver_eq]
@[simp] theorem deliver_inbox (s : State) (bs : List Byte) : (s.deliver bs).inbox = s.inbox := by rw [deliver_eq]
@[simp] theorem deliver_resp (s : State) (bs : List Byte) : (s.deliver bs).resp = s.resp := by rw [deliver_eq]

/-! ## Running a command -/

/-- What stands before a command: it is refused by the model, refused by the faulted block, or led to its state. -/
theorem guarded_cases {s t u : State} (h : guarded s t = .next u) :
    (s.cause.toNat < 16 ∧ s.faulted = true ∧ u = s.respondRefused) ∨ (s.ready ∧ u = t) := by
  unfold guarded State.causeReserved at h
  split at h
  · cases h
  · next hc =>
    have hlt : s.cause.toNat < 16 := by simpa using hc
    split at h
    · next hf => exact .inl ⟨hlt, hf, by cases h; rfl⟩
    · next hf => exact .inr ⟨⟨by simpa using hf, hlt⟩, by cases h; rfl⟩

theorem guarded_ready {s : State} (h : s.ready) (t : State) : guarded s t = .next t := by
  obtain ⟨hf, hc⟩ := h
  simp [guarded, State.causeReserved, hf, Nat.not_le.mpr hc]

theorem guarded_faulted {s : State} (hf : s.faulted = true) (hc : s.cause.toNat < 16) (t : State) :
    guarded s t = .next s.respondRefused := by
  simp [guarded, State.causeReserved, hf, Nat.not_le.mpr hc]

theorem guarded_reserved {s : State} (hc : 16 ≤ s.cause.toNat) (t : State) : guarded s t = .refused .reservedCause := by
  simp [guarded, State.causeReserved, hc]

theorem unguarded_legal {s : State} (hc : s.cause.toNat < 16) (t : State) : unguarded s t = .next t := by
  simp [unguarded, State.causeReserved, Nat.not_le.mpr hc]

theorem unguarded_reserved {s : State} (hc : 16 ≤ s.cause.toNat) (t : State) :
    unguarded s t = .refused .reservedCause := by
  simp [unguarded, State.causeReserved, hc]

theorem unguarded_cases {s t u : State} (h : unguarded s t = .next u) : s.cause.toNat < 16 ∧ u = t := by
  unfold unguarded State.causeReserved at h
  split at h
  · cases h
  · next hc => exact ⟨by simpa using hc, by cases h; rfl⟩

/-- How a command that reads the stream ends: its result, a fault on the old state, or the wait. -/
theorem settle_cases (s : State) (i : Instr) (r : Run State) :
    (∃ t, r = .done t ∧ s.settle i r = t) ∨ (∃ c info, r = .fault c info ∧ s.settle i r = s.raiseFault c info) ∨
      (r = .wait ∧ s.settle i r = s.hold i) := by
  cases r with
  | done t => exact .inl ⟨t, rfl, rfl⟩
  | fault c info => exact .inr (.inl ⟨c, info, rfl, rfl⟩)
  | wait => exact .inr (.inr ⟨rfl, rfl⟩)

end Sys2Proof.Machine
end

