-- ==== Sys2Proof/Laws/Table.lean ====
section
/-! SUPPORT. The tracker's table: what a read after a write gives, and that every operation keeps the canonical form. -/

namespace Sys2Proof.Machine

@[simp] theorem tableGet_nil (a : Icao) : tableGet a [] = none := rfl

theorem tableGet_tableSet_same (a : Icao) (v : AircraftState) (t : List (Icao × AircraftState)) :
    tableGet a (tableSet a v t) = some v := by
  induction t with
  | nil => simp [tableSet, tableGet]
  | cons e r ih =>
    obtain ⟨b, w⟩ := e
    simp only [tableSet]
    split
    · simp [tableGet]
    · split
      · simp [tableGet]
      · next hne => simp [tableGet, ih, Ne.symm hne]

theorem tableGet_tableSet_other {a b : Icao} (h : b ≠ a) (v : AircraftState) (t : List (Icao × AircraftState)) :
    tableGet b (tableSet a v t) = tableGet b t := by
  induction t with
  | nil => simp [tableSet, tableGet, Ne.symm h]
  | cons e r ih =>
    obtain ⟨c, w⟩ := e
    simp only [tableSet]
    split
    · simp [tableGet, Ne.symm h]
    · split
      · next heq => subst heq; simp [tableGet, Ne.symm h]
      · simp only [tableGet, ih]

/-- Where a written table's entries come from. -/
theorem mem_tableSet {a : Icao} {v : AircraftState} {t : List (Icao × AircraftState)} {e : Icao × AircraftState}
    (h : e ∈ tableSet a v t) : e = (a, v) ∨ e ∈ t := by
  induction t with
  | nil => simpa [tableSet] using h
  | cons f r ih =>
    obtain ⟨b, w⟩ := f
    simp only [tableSet] at h
    split at h
    · simpa using h
    · split at h
      · rcases List.mem_cons.mp h with h | h
        · exact .inl h
        · exact .inr (List.mem_cons_of_mem _ h)
      · rcases List.mem_cons.mp h with h | h
        · exact .inr (h ▸ List.mem_cons_self)
        · exact (ih h).imp_right (List.mem_cons_of_mem _)

theorem tableWf_nil : tableWf [] := List.Pairwise.nil

theorem tableWf_tableSet {t : List (Icao × AircraftState)} (h : tableWf t) (a : Icao) (v : AircraftState) :
    tableWf (tableSet a v t) := by
  induction t with
  | nil => simp [tableSet, tableWf]
  | cons e r ih =>
    obtain ⟨b, w⟩ := e
    obtain ⟨hb, hr⟩ := List.pairwise_cons.mp h
    simp only [tableSet]
    split
    · next hlt =>
      refine List.pairwise_cons.mpr ⟨fun f hf => ?_, h⟩
      rcases List.mem_cons.mp hf with rfl | hf
      · exact hlt
      · exact lt_trans hlt (hb f hf)
    · split
      · next hne heq => subst heq; exact List.pairwise_cons.mpr ⟨hb, hr⟩
      · next hnlt hne =>
        refine List.pairwise_cons.mpr ⟨fun f hf => ?_, ih hr⟩
        rcases mem_tableSet hf with rfl | hf
        · have : a.toNat ≠ b.toNat := fun hab => hne (BitVec.eq_of_toNat_eq hab)
          show b.toNat < a.toNat
          omega
        · exact hb f hf

theorem tableWf_filter {t : List (Icao × AircraftState)} (h : tableWf t) (p : Icao × AircraftState → Bool) :
    tableWf (t.filter p) := List.Pairwise.filter p h

/-- In a table in canonical form the entries are what reading their addresses gives. -/
theorem tableGet_eq_some_iff {t : List (Icao × AircraftState)} (h : tableWf t) (a : Icao) (v : AircraftState) :
    tableGet a t = some v ↔ (a, v) ∈ t := by
  induction t with
  | nil => simp
  | cons e r ih =>
    obtain ⟨b, w⟩ := e
    obtain ⟨hb, hr⟩ := List.pairwise_cons.mp h
    simp only [tableGet]
    split
    · next heq =>
      subst heq
      constructor
      · intro hv; cases hv; exact List.mem_cons_self
      · intro hm
        rcases List.mem_cons.mp hm with hm | hm
        · cases hm; rfl
        · exact absurd (hb _ hm) (lt_irrefl _)
    · next hne =>
      rw [ih hr, List.mem_cons]
      constructor
      · exact .inr
      · rintro (hm | hm)
        · cases hm; exact absurd rfl hne
        · exact hm

theorem tableGet_eq_none_iff (t : List (Icao × AircraftState)) (a : Icao) :
    tableGet a t = none ↔ ∀ e ∈ t, e.1 ≠ a := by
  induction t with
  | nil => simp
  | cons e r ih =>
    obtain ⟨b, w⟩ := e
    simp only [tableGet]
    split
    · next heq => simp [heq]
    · next hne => simp [ih, hne]

end Sys2Proof.Machine
end

