-- ==== Sys2Proof/Tests/Slice0.lean ====
section
/-! SUPPORT. The model's own tests: ill-formed commands are refused, words written out from the spec decode to their commands, one
step gives the spec's vectors (their section is cited), and every statement with hypotheses has a state that meets them. -/

namespace Sys2Proof.Tests

set_option Elab.async false

open Sys2Proof Sys2Proof.Machine

/-! ## Helpers -/

/-- The frame F8 of 95_test_vectors.md. -/
def f8Bytes : List Byte :=
  [0x8D#8, 0x48#8, 0x40#8, 0xD6#8, 0x20#8, 0x2C#8, 0xC3#8, 0x71#8, 0xC3#8, 0x2C#8, 0xE0#8, 0x57#8, 0x60#8, 0x98#8]

def f8 : Frame := ⟨1000000000#64, f8Bytes⟩

/-- The state after reset with the two OPEN parameters at the values the vectors use (R20). -/
def start : State := { State.reset with cfg := Config.optionsWith .n60 .n2 }

def withFrame (bytes : List Byte) : State := { start with frame := some ⟨0#64, bytes⟩ }

def withF8 : State := { start with frame := some f8 }

/-- The stream of 42_conditioning_power.md R518. -/
def shortStream : State :=
  { start with
    src := [0x64#8, 0x08#8, 0xC8#8, 0x08#8, 0xD4#8, 0x06#8, 0x90#8, 0x09#8, 0x00#8, 0x08#8, 0xCE#8, 0x07#8, 0x07#8, 0x08#8,
      0x09#8, 0x08#8, 0x0B#8, 0x08#8, 0xF3#8, 0x07#8]
    eos := true }

/-- An aircraft last seen at 5 ns. -/
def oneAircraft : State :=
  { start with table := [(0xA1B2C3#24, AircraftState.fresh 5#64)], lastNs := some 5#64 }

def respOf : Host.Outcome State Fault Refusal → Option Response
  | .next t => t.resp
  | .fault _ => none
  | .refused _ => none

/-- The next state of a command, or the old one where it stops. -/
def after (i : Instr) (s : State) : State :=
  match exec i s with
  | .next t => t
  | .fault _ => s
  | .refused _ => s

/-! ## Ill-formed commands -/

theorem test_long_range_operand_is_ill_formed : (Instr.bsRange (List.replicate 256 0#8) 0#8 0#8).wellFormed = false := by
  decide +kernel

theorem test_long_crc_operands_are_ill_formed :
    (Instr.crcCompute (List.replicate 256 0#8)).wellFormed = false ∧
      (Instr.crcCheck (List.replicate 256 0#8)).wellFormed = false := by
  decide +kernel

theorem test_short_frame_is_ill_formed : (Instr.frmInject 0#64 (List.replicate 13 0#8)).wellFormed = false := by decide

theorem test_long_frame_is_ill_formed : (Instr.frmInject 0#64 (List.replicate 15 0#8)).wellFormed = false := by decide

theorem test_long_call_sign_is_ill_formed :
    (Instr.trkUpdate (.ident 0#64 0#24 0#8 (List.replicate 256 0#8))).wellFormed = false := by
  decide +kernel

theorem test_real_tags_are_no_bad_tags :
    [1#8, 2#8, 3#8].all (fun tag => !(Instr.trkUpdate (.badTag tag)).wellFormed) = true := by
  decide

theorem test_longest_operands_are_well_formed :
    (Instr.crcCompute (List.replicate 255 0#8)).wellFormed = true ∧ (Instr.frmInject 0#64 f8Bytes).wellFormed = true ∧
      (Instr.trkUpdate (.ident 0#64 0#24 0#8 (List.replicate 255 0#8))).wellFormed = true ∧
      (Instr.trkUpdate (.badTag 4#8)).wellFormed = true := by
  decide +kernel

/-! ## Decoding -/

/-- 30_encoding.md R303: an opcode outside the table is rejected by name, before anything after it is read. -/
theorem test_decode_rejects_opcode_04 : decode [0x04#8, 0xFF#8] = .error (.illegalOpcode 0x04#8) := rfl

/-- 30_encoding.md R300: a word that ends inside its operands. -/
theorem test_decode_rejects_truncated : decode [0x30#8, 0x04#8] = .error (.truncated 0x30#8) := rfl

/-- 95_test_vectors.md P4 step 2, in the numbering of spec/opcode_table.json: byte 0 in the low bits. -/
theorem test_table_word : decodeTableWord 24 0xB00430 = some (.winGet 1200#16) := by decide +kernel

/-- 95_test_vectors.md P5 step 4 -/
theorem test_decode_bf_extract : decode [0x01#8, 0x00#8, 0x20#8, 0x2C#8, 0xC3#8, 0x71#8, 0xC3#8, 0x2C#8, 0xE0#8, 0x33#8, 0x05#8] =
    .ok (.bfExtract 0x00202CC371C32CE0#64 51#8 5#8) := rfl

/-- 30_encoding.md R302 -/
theorem test_decode_bf_testbit : decode [0x02#8, 0x8D#8, 0x48#8, 0x40#8, 0xD6#8, 0x20#8, 0x2C#8, 0xC3#8, 0x71#8, 0x3F#8] =
    .ok (.bfTestbit 0x8D4840D6202CC371#64 63#8) := rfl

/-- 95_test_vectors.md P5 step 3 -/
theorem test_decode_bs_range : decode
     [0x03#8, 0x0E#8, 0x8D#8, 0x48#8, 0x40#8, 0xD6#8, 0x20#8, 0x2C#8, 0xC3#8, 0x71#8, 0xC3#8, 0x2C#8, 0xE0#8, 0x57#8, 0x60#8, 0x98#8,
      0x04#8, 0x0B#8] =
    .ok (.bsRange f8Bytes 4#8 11#8) := rfl

/-- 95_test_vectors.md P5 step 2 -/
theorem test_decode_crc_compute : decode [0x10#8, 0x0B#8, 0x8D#8, 0x48#8, 0x40#8, 0xD6#8, 0x20#8, 0x2C#8, 0xC3#8, 0x71#8, 0xC3#8, 0x2C#8, 0xE0#8] =
    .ok (.crcCompute (f8Bytes.take 11)) := rfl

/-- 95_test_vectors.md P5 step 1 -/
theorem test_decode_crc_check : decode [0x11#8, 0x0E#8, 0x8D#8, 0x48#8, 0x40#8, 0xD6#8, 0x20#8, 0x2C#8, 0xC3#8, 0x71#8, 0xC3#8, 0x2C#8, 0xE0#8, 0x57#8, 0x60#8, 0x98#8] =
    .ok (.crcCheck f8Bytes) := rfl

/-- 30_encoding.md R302 -/
theorem test_decode_crc_table : decode [0x12#8, 0x80#8] =
    .ok (.crcTable 0x80#8) := rfl

/-- 30_encoding.md R302 -/
theorem test_decode_sc_condition : decode [0x20#8, 0x64#8, 0x08#8] =
    .ok (.scCondition 0x64#8 0x08#8) := rfl

/-- 30_encoding.md R302 -/
theorem test_decode_pe_power : decode
     [0x21#8, 0x00#8, 0x01#8, 0xFF#8, 0xFE#8, 0x00#8, 0x03#8, 0x00#8, 0x04#8, 0x00#8, 0x05#8, 0x00#8, 0x06#8, 0x00#8, 0x07#8, 0xF8#8,
      0x00#8] =
    .ok (.pePower 1#16 0xFFFE#16 3#16 4#16 5#16 6#16 7#16 0xF800#16) := rfl

/-- 95_test_vectors.md P4 step 2 -/
theorem test_decode_win_get : decode [0x30#8, 0x04#8, 0xB0#8] =
    .ok (.winGet 1200#16) := rfl

/-- 30_encoding.md R302 -/
theorem test_decode_win_advance : decode [0x31#8] =
    .ok (.winAdvance) := rfl

/-- 30_encoding.md R302 -/
theorem test_decode_win_advanceby : decode [0x32#8, 0x01#8, 0x02#8, 0x03#8, 0x04#8] =
    .ok (.winAdvanceby 0x01020304#32) := rfl

/-- 95_test_vectors.md P1 step 1 -/
theorem test_decode_win_isfull : decode [0x33#8] =
    .ok (.winIsfull) := rfl

/-- 95_test_vectors.md P1 step 3 -/
theorem test_decode_win_position : decode [0x34#8] =
    .ok (.winPosition) := rfl

/-- 30_encoding.md R302 -/
theorem test_decode_dem_size : decode [0x40#8, 0x8D#8] =
    .ok (.demSize 0x8D#8) := rfl

/-- 95_test_vectors.md P1 step 2 -/
theorem test_decode_dem_next : decode [0x41#8] =
    .ok (.demNext) := rfl

/-- 95_test_vectors.md P4 step 1 -/
theorem test_decode_frm_inject : decode
     [0x50#8, 0x00#8, 0x00#8, 0x00#8, 0x00#8, 0x3B#8, 0x9A#8, 0xCA#8, 0x00#8, 0x8D#8, 0x48#8, 0x40#8, 0xD6#8, 0x20#8, 0x2C#8, 0xC3#8,
      0x71#8, 0xC3#8, 0x2C#8, 0xE0#8, 0x57#8, 0x60#8, 0x98#8] =
    .ok (.frmInject 1000000000#64 f8Bytes) := rfl

/-- 30_encoding.md R302 -/
theorem test_decode_frm_ts : decode [0x51#8] =
    .ok (.frmTs) := rfl

/-- 30_encoding.md R302 -/
theorem test_decode_frm_df : decode [0x52#8] =
    .ok (.frmDf) := rfl

/-- 30_encoding.md R302 -/
theorem test_decode_frm_ca : decode [0x53#8] =
    .ok (.frmCa) := rfl

/-- 30_encoding.md R302 -/
theorem test_decode_frm_icao : decode [0x54#8] =
    .ok (.frmIcao) := rfl

/-- 30_encoding.md R302 -/
theorem test_decode_frm_me : decode [0x55#8] =
    .ok (.frmMe) := rfl

/-- 30_encoding.md R302 -/
theorem test_decode_frm_tc : decode [0x56#8] =
    .ok (.frmTc) := rfl

/-- 30_encoding.md R302 -/
theorem test_decode_frm_bytes : decode [0x57#8] =
    .ok (.frmBytes) := rfl

/-- 30_encoding.md R302 -/
theorem test_decode_msg_decode : decode [0x60#8] =
    .ok (.msgDecode) := rfl

/-- 95_test_vectors.md P5 step 7 -/
theorem test_decode_alt_decode : decode [0x61#8, 0x0C#8, 0x38#8] =
    .ok (.altDecode 0x0C38#16) := rfl

/-- 30_encoding.md R302 -/
theorem test_decode_gray_decode : decode [0x62#8, 0x00#8, 0x80#8, 0x09#8] =
    .ok (.grayDecode 128#16 9#8) := rfl

/-- 95_test_vectors.md P5 step 6 -/
theorem test_decode_cs_char : decode [0x63#8, 0x0E#8] =
    .ok (.csChar 14#8) := rfl

/-- 95_test_vectors.md P5 step 8 -/
theorem test_decode_cpr_merge : decode [0x70#8, 0xC1#8, 0x5E#8, 0xE0#8, 0x6B#8, 0x2F#8, 0x29#8, 0xD3#8, 0xF8#8, 0x30#8] =
    .ok (.cprMerge 99005#17 98732#17 96590#17 81795#17 0#1) := rfl

/-- 30_encoding.md R302, four 17-bit fields, then `recent` -/
theorem test_decode_cpr_merge_odd : decode [0x70#8, 0x00#8, 0x01#8, 0x80#8, 0x01#8, 0xC0#8, 0x00#8, 0x20#8, 0x00#8, 0x58#8] =
    .ok (.cprMerge 3#17 7#17 1#17 5#17 1#1) := rfl

/-- 30_encoding.md R304 -/
theorem test_decode_trk_update_ident : decode
     [0x80#8, 0x01#8, 0x00#8, 0x00#8, 0x00#8, 0x00#8, 0x00#8, 0x00#8, 0x00#8, 0x05#8, 0xA1#8, 0xB2#8, 0xC3#8, 0x50#8, 0x06#8, 0x4E#8,
      0x31#8, 0x32#8, 0x33#8, 0x34#8, 0x35#8] =
    .ok (.trkUpdate (.ident 5#64 0xA1B2C3#24 80#8 [0x4E#8, 0x31#8, 0x32#8, 0x33#8, 0x34#8, 0x35#8])) := rfl

/-- 95_test_vectors.md P3 step 2 -/
theorem test_decode_trk_update_position : decode
     [0x80#8, 0x02#8, 0x00#8, 0x00#8, 0x00#8, 0x00#8, 0xB2#8, 0xD0#8, 0x5E#8, 0x00#8, 0xA1#8, 0xB2#8, 0xC3#8, 0x40#8, 0xC6#8, 0x9F#8,
      0x33#8, 0x33#8, 0x33#8, 0x33#8, 0x33#8, 0x01#8, 0x01#8, 0xF4#8, 0x00#8, 0xFA#8, 0x00#8] =
    .ok (.trkUpdate (.position 3000000000#64 0xA1B2C3#24 0x40C69F3333333333#64 1#8 1000#17 1000#17)) := rfl

/-- 30_encoding.md R304 -/
theorem test_decode_trk_update_velocity : decode
     [0x80#8, 0x03#8, 0x00#8, 0x00#8, 0x00#8, 0x00#8, 0x00#8, 0x00#8, 0x00#8, 0x07#8, 0xA1#8, 0xB2#8, 0xC3#8, 0x40#8, 0x59#8, 0xB8#8,
      0xE3#8, 0x8E#8, 0x38#8, 0xE3#8, 0x8E#8, 0x3F#8, 0xF9#8, 0x21#8, 0xFB#8, 0x54#8, 0x44#8, 0x2D#8, 0x18#8] =
    .ok (.trkUpdate (.velocity 7#64 0xA1B2C3#24 0x4059B8E38E38E38E#64 0x3FF921FB54442D18#64)) := rfl

/-- 30_encoding.md R304, 95_test_vectors.md §2.11 -/
theorem test_decode_trk_update_bad_tag : decode [0x80#8, 0x04#8] =
    .ok (.trkUpdate (.badTag 4#8)) := rfl

/-- 95_test_vectors.md P3 step 5 -/
theorem test_decode_trk_purge : decode [0x81#8, 0x00#8, 0x00#8, 0x00#8, 0x11#8, 0xED#8, 0x8E#8, 0xC2#8, 0x00#8] =
    .ok (.trkPurge 77000000000#64) := rfl

/-- 95_test_vectors.md P3 step 4 -/
theorem test_decode_trk_read : decode [0x82#8, 0xA1#8, 0xB2#8, 0xC3#8] =
    .ok (.trkRead 0xA1B2C3#24) := rfl

/-- 30_encoding.md R302 -/
theorem test_decode_trk_last : decode [0x83#8] =
    .ok (.trkLast) := rfl

/-- 95_test_vectors.md P3 step 7 -/
theorem test_decode_ev_pop : decode [0x84#8] =
    .ok (.evPop) := rfl

/-- 95_test_vectors.md P2 -/
theorem test_decode_pipe_step : decode [0x90#8] =
    .ok (.pipeStep) := rfl

/-- 95_test_vectors.md P4 step 6 -/
theorem test_decode_blk_reset : decode [0xF0#8] =
    .ok (.blkReset) := rfl

/-- 95_test_vectors.md P4 step 3 -/
theorem test_decode_blk_status : decode [0xF1#8] =
    .ok (.blkStatus) := rfl

/-- 30_encoding.md R302 -/
theorem test_decode_blk_config : decode [0xF2#8, 0x0C#8] =
    .ok (.blkConfig 12#8) := rfl

/-! ## One step -/

/-- 95_test_vectors.md §2.1 -/
theorem test_extract_widest : respOf (exec (.bfExtract 0x8D4840D6202CC371#64 33#8 31#8) start) =
    some (.normal .ok (.bits 32 1185161323#32)) := by decide

/-- 95_test_vectors.md §2.1 -/
theorem test_extract_size_checked_first : respOf (exec (.bfExtract 0#64 255#8 40#8) start) =
    some (.fault .bfSize 0xFF28#64) := by decide

/-- 95_test_vectors.md §2.1 -/
theorem test_testbit_top : respOf (exec (.bfTestbit 0x8D4840D6202CC371#64 63#8) start) =
    some (.normal .ok (.bits 1 1#1)) := by decide

/-- 95_test_vectors.md §2.1 -/
theorem test_testbit_index : respOf (exec (.bfTestbit 0#64 64#8) start) =
    some (.fault .bfIndex 64#64) := by decide

/-- 95_test_vectors.md §2.1 -/
theorem test_range_eight_bytes : respOf (exec (.bsRange f8Bytes 6#8 14#8) start) =
    some (.normal .ok (.bits 64 0xC371C32CE0576098#64)) := by decide

/-- 95_test_vectors.md §2.1 -/
theorem test_range_bounds_before_width : respOf (exec (.bsRange f8Bytes 10#8 20#8) start) =
    some (.fault .bsRange 0x0A140E#64) := by decide

/-- 95_test_vectors.md §2.2 -/
theorem test_crc_compute_digits : respOf (exec (.crcCompute [0x31#8, 0x32#8, 0x33#8, 0x34#8, 0x35#8, 0x36#8, 0x37#8, 0x38#8, 0x39#8]) start) =
    some (.normal .ok (.bits 24 0x054268#24)) := by decide +kernel

/-- 95_test_vectors.md §2.2 -/
theorem test_crc_check_frame : respOf (exec (.crcCheck f8Bytes) start) =
    some (.normal .ok (.bits 1 1#1)) := by decide +kernel

/-- 95_test_vectors.md §2.2 -/
theorem test_crc_check_flipped : respOf (exec (.crcCheck (f8Bytes.take 13 ++ [0x99#8])) start) =
    some (.normal .ok (.bits 1 0#1)) := by decide +kernel

/-- 95_test_vectors.md §2.2 -/
theorem test_crc_table_top : respOf (exec (.crcTable 0xFF#8) start) =
    some (.normal .ok (.bits 24 0xFA0480#24)) := by decide +kernel

/-- 95_test_vectors.md §2.2 -/
theorem test_crc_table_sum : ((List.range 256).map fun n => (crcEntry (BitVec.ofNat 8 n)).toNat).sum = 2147483520 := by decide +kernel

/-- 95_test_vectors.md §2.3 -/
theorem test_condition_largest : respOf (exec (.scCondition 0xFF#8 0x0F#8) start) =
    some (.normal .ok (.bits 12 2047#12)) := by decide

/-- 95_test_vectors.md §2.3 -/
theorem test_condition_fault : respOf (exec (.scCondition 0x00#8 0x10#8) start) =
    some (.fault .sampleRange 0x1000#64) := by decide

/-- 95_test_vectors.md §2.3 -/
theorem test_power_largest : respOf (exec (.pePower 2047#16 2047#16 0xF800#16 0xF800#16 2047#16 2047#16 0xF800#16 0xF800#16) start) =
    some (.normal .ok (.bits 32 134152200#32)) := by decide

/-- 95_test_vectors.md §2.3 -/
theorem test_power_lowest_index_first : respOf (exec (.pePower 0xF7FF#16 0#16 0#16 0#16 0#16 0#16 0#16 9999#16) start) =
    some (.fault .sampleRange 0xF7FF#64) := by decide

/-- 95_test_vectors.md §2.4 -/
theorem test_win_get : respOf (exec (.winGet 4#16) shortStream) =
    some (.normal .ok (.bits 32 315200#32)) := by decide

/-- 95_test_vectors.md §2.3 -/
theorem test_win_get_sample_range : respOf (exec (.winGet 0#16) { start with src := [0x00#8, 0x08#8, 0x00#8, 0x10#8], eos := true }) =
    some (.fault .sampleRange 0x11000#64) := by decide

/-- 95_test_vectors.md §2.4 -/
theorem test_win_advance : respOf (exec (.winGet 0#16) (after .winAdvance shortStream)) =
    some (.normal .ok (.bits 32 200000#32)) := by decide

/-- 95_test_vectors.md §2.4 -/
theorem test_win_advanceby : (after (.winAdvanceby 5#32) shortStream).wpos = 5#64 := by decide

/-- 95_test_vectors.md §2.4 -/
theorem test_win_advanceby_is_atomic : after (.winAdvanceby 6#32) shortStream = shortStream.raiseFault .winPastEnd 5#64 := by decide

/-- 95_test_vectors.md §2.4 -/
theorem test_win_isfull : respOf (exec (.winIsfull) { start with src := List.replicate 4800 0x00#8, eos := true }) =
    some (.normal .ok (.bits 1 1#1)) := by decide +kernel

/-- 95_test_vectors.md §2.4 -/
theorem test_win_isfull_past : respOf (exec (.winIsfull) { start with src := List.replicate 4800 0x00#8, eos := true, wpos := 1#64 }) =
    some (.normal .ok (.bits 1 0#1)) := by decide +kernel

/-- 95_test_vectors.md §2.4 -/
theorem test_win_position : respOf (exec (.winPosition) { start with wpos := 3#64 }) =
    some (.normal .ok (.bits 64 3#64)) := by decide

/-- 95_test_vectors.md §2.5, 44_demodulator.md R608 -/
theorem test_dem_size_18 : respOf (exec (.demSize 0x90#8) start) =
    some (.normal .ok (.bits 8 0#8)) := by decide

/-- 95_test_vectors.md §2.5 -/
theorem test_dem_next_at_the_end : after .demNext { start with eos := true } =
    { start with eos := true, dstate := .done, resp := some (.normal .fin .empty) } := by decide

/-- 95_test_vectors.md §2.6 -/
theorem test_inject_stores : (after (.frmInject 1000000000#64 f8Bytes) start).frame = some f8 := by decide +kernel

/-- 95_test_vectors.md §2.6 -/
theorem test_inject_drops_other_formats : respOf (exec (.frmInject 0#64 [0x95#8, 0x12#8, 0x34#8, 0x56#8, 0x20#8, 0x00#8, 0x00#8, 0x00#8, 0x00#8, 0x00#8, 0x00#8, 0xFB#8, 0x9B#8, 0x12#8]) start) =
    some (.normal .dropDf .empty) := by decide

/-- 95_test_vectors.md §2.6 -/
theorem test_frm_ts : respOf (exec (.frmTs) withF8) =
    some (.normal .ok (.bits 64 1000000000#64)) := by decide

/-- 95_test_vectors.md §2.6 -/
theorem test_frm_ts_after_reset : respOf (exec (.frmTs) start) =
    some (.fault .noFrame 0#64) := by decide

/-- 95_test_vectors.md §2.6 -/
theorem test_frm_df : respOf (exec (.frmDf) withF8) =
    some (.normal .ok (.bits 5 17#5)) := by decide

/-- 95_test_vectors.md §2.6 -/
theorem test_frm_ca : respOf (exec (.frmCa) withF8) =
    some (.normal .ok (.bits 3 5#3)) := by decide

/-- 95_test_vectors.md §2.6 -/
theorem test_frm_icao : respOf (exec (.frmIcao) withF8) =
    some (.normal .ok (.bits 24 0x4840D6#24)) := by decide

/-- 95_test_vectors.md §2.6 -/
theorem test_frm_me : respOf (exec (.frmMe) withF8) =
    some (.normal .ok (.bits 64 0x202CC371C32CE0#64)) := by decide

/-- 95_test_vectors.md §2.6 -/
theorem test_frm_tc : respOf (exec (.frmTc) withF8) =
    some (.normal .ok (.bits 5 4#5)) := by decide

/-- 95_test_vectors.md §2.6 -/
theorem test_frm_bytes : respOf (exec (.frmBytes) withF8) =
    some (.normal .ok (.bytes f8Bytes)) := by decide

/-- 95_test_vectors.md §2.6 -/
theorem test_msg_decode_ident : respOf (exec (.msgDecode) withF8) =
    some (.normal .ok (.message (.ident 1000000000#64 0x4840D6#24 80#8
      [0x4B#8, 0x4C#8, 0x4D#8, 0x31#8, 0x30#8, 0x32#8, 0x33#8, 0x20#8]))) := by decide +kernel

/-- 95_test_vectors.md §2.7 -/
theorem test_msg_decode_velocity : respOf (exec (.msgDecode) (withFrame [0x8D#8, 0x48#8, 0x50#8, 0x20#8, 0x99#8, 0x44#8, 0x09#8, 0x94#8, 0x08#8, 0x38#8, 0x17#8, 0x5B#8, 0x28#8, 0x4F#8])) =
    some (.normal .ok (.message (.velocity 0#64 0x485020#24 0x4054799BD91BA0EA#64 0x400988F05F8D3C3F#64))) := by decide +kernel

/-- 95_test_vectors.md §2.9 -/
theorem test_alt_decode_gillham : respOf (exec (.altDecode 0x084#16) start) =
    some (.normal .ok (.bits 32 126700#32)) := by decide

/-- 95_test_vectors.md §2.9 -/
theorem test_alt_decode_q : respOf (exec (.altDecode 0xC38#16) start) =
    some (.normal .ok (.bits 32 38000#32)) := by decide

/-- 95_test_vectors.md §2.9 -/
theorem test_gray_decode : respOf (exec (.grayDecode 128#16 9#8) start) =
    some (.normal .ok (.bits 16 255#16)) := by decide

/-- 95_test_vectors.md §2.9 -/
theorem test_gray_decode_width_first : respOf (exec (.grayDecode 0xFFFF#16 17#8) start) =
    some (.fault .badOperand 17#64) := by decide

/-- 95_test_vectors.md §2.6 -/
theorem test_cs_char : respOf (exec (.csChar 14#8) start) =
    some (.normal .ok (.bits 8 0x4E#8)) := by decide

/-- 95_test_vectors.md §2.6 -/
theorem test_cs_char_fault : respOf (exec (.csChar 64#8) start) =
    some (.fault .badOperand 64#64) := by decide

/-- 95_test_vectors.md §2.10 -/
theorem test_cpr_merge : respOf (exec (.cprMerge 76022#17 45875#17 20972#17 58218#17 1#1) start) =
    some (.normal .ok (.geo ⟨1803886592#32, 0xe7e4b1e6#32⟩)) := by decide +kernel

/-- 95_test_vectors.md §2.10 -/
theorem test_cpr_merge_zone_mismatch : respOf (exec (.cprMerge 0#17 0#17 0#17 100000#17 0#1) start) =
    some (.normal .indetZone .empty) := by decide +kernel

/-- 95_test_vectors.md §2.11 row 1 -/
theorem test_trk_update_adds : (after (.trkUpdate (.ident 5#64 0xA1B2C3#24 80#8 [0x4E#8, 0x31#8])) start).ev =
    [.add 0xA1B2C3#24 { AircraftState.fresh 5#64 with category := some 80#8, callSign := some [0x4E#8, 0x31#8] }] := by decide

/-- 95_test_vectors.md §2.11 row 4 -/
theorem test_trk_update_pairs : ((tableGet 0xA1B2C3#24 (after (.trkUpdate (.position 20000000000#64 0xA1B2C3#24 0x40C69F3333333333#64 1#8 1000#17 1000#17))
    (after (.trkUpdate (.position 10000000000#64 0xA1B2C3#24 0x40C69F3333333333#64 0#8 1000#17 1000#17)) start)).table).bind
      (·.position)) = some ⟨564966#32, 555390#32⟩ := by decide +kernel

/-- 95_test_vectors.md §2.11 row 8 -/
theorem test_trk_purge_keeps_at_the_limit : (after (.trkPurge 60000000005#64) oneAircraft).table = oneAircraft.table := by decide

/-- 95_test_vectors.md §2.11 row 9 -/
theorem test_trk_purge_removes : (after (.trkPurge 60000000006#64) oneAircraft).ev = [.remove 0xA1B2C3#24] := by decide

/-- 95_test_vectors.md §2.11 row 10 -/
theorem test_trk_read_none : respOf (exec (.trkRead 0xA1B2C3#24) start) =
    some (.normal .ok (.aircraft none)) := by decide

/-- 95_test_vectors.md §2.11 row 7 -/
theorem test_trk_last : respOf (exec (.trkLast) oneAircraft) =
    some (.normal .ok (.time (some 5#64))) := by decide

/-- 95_test_vectors.md §2.11 row 11 -/
theorem test_ev_pop : respOf (exec (.evPop) { start with ev := [.remove 1#24, .remove 2#24] }) =
    some (.normal .ok (.event (some (.remove 1#24)))) := by decide

/-- 95_test_vectors.md §2.12 -/
theorem test_blk_reset : after .blkReset (after (.winGet 1200#16) { start with wpos := 7#64 }) =
    { start with resp := some (.normal .ok .empty) } := by decide

/-- 95_test_vectors.md §2.12 -/
theorem test_blk_status : respOf (exec (.blkStatus) (after (.winGet 0#16) { start with eos := true })) =
    some (.normal .ok (.status 0x0A03#16 0#64)) := by decide

/-- 95_test_vectors.md §2.3 -/
theorem test_blk_status_sample : respOf (exec (.blkStatus) (after (.winGet 0#16) { start with src := [0x00#8, 0x08#8, 0x00#8, 0x10#8] })) =
    some (.normal .ok (.status 0x0801#16 0x11000#64)) := by decide

/-- 95_test_vectors.md §2.12 -/
theorem test_blk_config_options : respOf (exec (.blkConfig 12#8) start) =
    some (.normal .ok (.bits 64 0x0088#64)) := by decide

/-- 95_test_vectors.md §2.12 -/
theorem test_refused_while_faulted : respOf (exec (.frmIcao) (after (.winGet 1200#16) withF8)) =
    some (.refused) := by decide

/-! ## A transmission: four equal samples for each pulse, 42_conditioning_power.md R510, 44_demodulator.md R601 to R607 -/

/-- A pulse starts `a` power samples after the left edge: the preamble, then one pulse for each bit, in its first half for 1. -/
def pulseAt (bytes : List Byte) (a : Nat) : Bool :=
  if a < 80 then a == 0 || a == 10 || a == 35 || a == 45
  else
    let bit := (bytes.getD ((a - 80) / 10 / 8) 0#8).getLsbD (7 - (a - 80) / 10 % 8)
    decide ((a - 80) / 10 < 112) && ((decide ((a - 80) % 10 = 0) && bit) || (decide ((a - 80) % 10 = 5) && !bit))

/-- Raw word `r`: the left edge stands at power sample 4, and a pulse has the amplitude 1000 for four samples. -/
def waveWord (bytes : List Byte) (r : Nat) : Nat :=
  if decide (8 ≤ r) && (pulseAt bytes ((r - 8) / 2) || (decide (10 ≤ r) && pulseAt bytes ((r - 8) / 2 - 1))) then 3048 else 2048

def waveByte (bytes : List Byte) (n : Nat) : Byte :=
  BitVec.ofNat 8 (if n % 2 = 0 then waveWord bytes (n / 2) else waveWord bytes (n / 2) / 256)

@[irreducible] def wave (bytes : List Byte) : List Byte := (List.range 4816).map (waveByte bytes)

theorem wave_length (bytes : List Byte) : (wave bytes).length = 4816 := by
  unfold wave
  rw [List.length_map, List.length_range]

theorem srcByte_wave (bytes : List Byte) (n : Nat) :
    srcByte (wave bytes) n = if n < 4816 then (waveByte bytes n).toNat else 0 := by
  unfold wave
  exact srcByte_map_range ..

/-- The frame's left edge stands at power sample `q + 4`. -/
def transmission (q : Nat) (bytes : List Byte) : State :=
  { start with src := List.replicate (4 * q) 0#8 ++ wave bytes, wpos := BitVec.ofNat 64 (q + 4) }

def wavePower (bytes : List Byte) (k : Nat) : Nat := powerOfBytes (fun n => (waveByte bytes n).toNat) k

theorem power_wave (bytes : List Byte) {k : Nat} (hk : k ≤ 1203) : power (wave bytes) k = wavePower bytes k := by
  refine power_congr fun n hn => ?_
  rw [srcByte_wave, if_pos (by omega)]

theorem power_transmission (q : Nat) (bytes : List Byte) {k : Nat} (h3 : 3 ≤ k) (hk : k ≤ 1203) :
    power (transmission q bytes).src (q + k) = wavePower bytes k := by
  rw [← power_wave bytes hk]
  exact power_append (List.length_replicate) (wave bytes) h3

theorem waveWord_le (bytes : List Byte) (r : Nat) : waveWord bytes r ≤ 4095 := by
  unfold waveWord
  split <;> decide

theorem wave_word (bytes : List Byte) (n : Nat) : srcByte (wave bytes) (2 * n) + 256 * srcByte (wave bytes) (2 * n + 1) ≤ 4095 := by
  have hle := waveWord_le bytes n
  rw [srcByte_wave, srcByte_wave]
  by_cases hn : n < 2408
  · rw [if_pos (by omega), if_pos (by omega), waveByte, waveByte, if_pos (by omega), if_neg (by omega),
      show 2 * n / 2 = n by omega, show (2 * n + 1) / 2 = n by omega, BitVec.toNat_ofNat, BitVec.toNat_ofNat]
    omega
  · rw [if_neg (by omega), if_neg (by omega)]
    decide

theorem transmission_word (q : Nat) (bytes : List Byte) (n : Nat) :
    srcByte (transmission q bytes).src (2 * n) + 256 * srcByte (transmission q bytes).src (2 * n + 1) ≤ 4095 := by
  have hlen : (List.replicate (4 * q) (0#8 : Byte)).length = 4 * q := List.length_replicate
  by_cases h : 2 * n + 1 < 4 * q
  · simp only [transmission]
    rw [srcByte_append_left (by omega), srcByte_append_left (by omega)]
    simp [srcByte, List.getD_eq_getElem?_getD, h, show 2 * n < 4 * q by omega]
  · have h2 : 2 * n = 4 * q + 2 * (n - 2 * q) := by omega
    simp only [transmission]
    rw [h2, show 4 * q + 2 * (n - 2 * q) + 1 = 4 * q + (2 * (n - 2 * q) + 1) by omega]
    have hb : ∀ m, srcByte (List.replicate (4 * q) 0#8 ++ wave bytes) (4 * q + m) = srcByte (wave bytes) m := by
      intro m
      have := srcByte_append_right (List.replicate (4 * q) 0#8) (wave bytes) m
      rwa [hlen] at this
    rw [hb, hb]
    exact wave_word bytes _

theorem transmission_wpos {q : Nat} (hq : q + 4 < 2 ^ 64) (bytes : List Byte) : (transmission q bytes).wpos.toNat = q + 4 := by
  show (BitVec.ofNat 64 (q + 4)).toNat = q + 4
  rw [BitVec.toNat_ofNat, Nat.mod_eq_of_lt (by omega)]

theorem transmission_powerCount (q : Nat) (bytes : List Byte) : powerCount (transmission q bytes).src = q + 1204 := by
  simp only [powerCount, transmission, List.length_append, List.length_replicate, wave_length]
  omega

theorem transmission_clean {q : Nat} (hq : q + 4 < 2 ^ 64) (bytes : List Byte) : scansCleanly (transmission q bytes) where
  scanning := rfl
  full := by
    rw [transmission_wpos hq, transmission_powerCount]
  legal := fun _ _ n _ _ => transmission_word q bytes n

theorem transmission_points (q : Nat) (bytes : List Byte) (n : Nat) : legalPoints (transmission q bytes) n :=
  fun _ _ m _ _ => transmission_word q bytes m

/-- A sample's amplitude: the pulse that starts at power sample `a` lasts four samples. -/
def amp (bytes : List Byte) (a : Nat) : Int := if pulseAt bytes a || pulseAt bytes (a - 1) then 1000 else 0

theorem waveSample (bytes : List Byte) {r : Nat} (hr : 8 ≤ r) :
    (((waveByte bytes (2 * r)).toNat ||| (waveByte bytes (2 * r + 1)).toNat <<< 8 : Nat) : Int) - Config.bias =
      amp bytes ((r - 8) / 2) := by
  have hw : waveWord bytes r = if pulseAt bytes ((r - 8) / 2) || pulseAt bytes ((r - 8) / 2 - 1) then 3048 else 2048 := by
    unfold waveWord
    by_cases h : 10 ≤ r
    · simp [hr, h]
    · simp [hr, h, show (r - 8) / 2 = 0 by omega]
  rw [waveByte, waveByte, if_pos (by omega), if_neg (by omega), show 2 * r / 2 = r by omega, show (2 * r + 1) / 2 = r by omega,
    hw, amp]
  split <;> decide

/-- A power sample from four amplitudes. -/
def ampPower (bytes : List Byte) (k : Nat) : Nat :=
  (2 * (amp bytes (k - 7) - amp bytes (k - 6) + amp bytes (k - 5) - amp bytes (k - 4)) ^ 2).toNat

theorem wavePower_eq (bytes : List Byte) {k : Nat} (hk : 7 ≤ k) : wavePower bytes k = ampPower bytes k := by
  have e (i r : Nat) (h1 : 2 * k + i - 6 = r) (h2 : 8 ≤ r) :
      (if 2 * (k : Int) - 6 + (i : Int) < 0 then (0 : Int)
        else (((waveByte bytes (2 * (2 * k + i - 6))).toNat ||| (waveByte bytes (2 * (2 * k + i - 6) + 1)).toNat <<< 8 : Nat) : Int)
          - Config.bias) = amp bytes ((r - 8) / 2) := by
    rw [if_neg (by omega), h1, waveSample bytes h2]
  unfold wavePower powerOfBytes ampPower
  rw [show List.range 8 = [0, 1, 2, 3, 4, 5, 6, 7] from rfl]
  simp only [List.map_cons, List.map_nil]
  rw [e 0 _ rfl (by omega), e 1 _ rfl (by omega), e 2 _ rfl (by omega), e 3 _ rfl (by omega), e 4 _ rfl (by omega),
    e 5 _ rfl (by omega), e 6 _ rfl (by omega), e 7 _ rfl (by omega), show (2 * k + 0 - 6 - 8) / 2 = k - 7 by omega,
    show (2 * k + 1 - 6 - 8) / 2 = k - 7 by omega, show (2 * k + 2 - 6 - 8) / 2 = k - 6 by omega,
    show (2 * k + 3 - 6 - 8) / 2 = k - 6 by omega, show (2 * k + 4 - 6 - 8) / 2 = k - 5 by omega,
    show (2 * k + 5 - 6 - 8) / 2 = k - 5 by omega, show (2 * k + 6 - 6 - 8) / 2 = k - 4 by omega,
    show (2 * k + 7 - 6 - 8) / 2 = k - 4 by omega, powerOf]
  congr 1
  ring

/-- The powers that the preamble test reads, for every frame of this shape. -/
def preambleShape (bytes : List Byte) : Bool :=
  decide (wavePower bytes 4 = 2000000 ∧ wavePower bytes 14 = 2000000 ∧ wavePower bytes 39 = 2000000 ∧
    wavePower bytes 49 = 2000000 ∧ wavePower bytes 9 = 0 ∧ wavePower bytes 19 = 0 ∧ wavePower bytes 24 = 0 ∧
    wavePower bytes 29 = 0 ∧ wavePower bytes 34 = 0 ∧ wavePower bytes 44 = 0 ∧ wavePower bytes 5 = 0 ∧
    wavePower bytes 15 = 0 ∧ wavePower bytes 40 = 0 ∧ wavePower bytes 50 = 0)

/-- The bytes that the bit slicer reads. -/
def slicedShape (bytes : List Byte) : Bool :=
  (List.range 14).all fun m => decide ((bytes.getD m 0#8).toNat =
    ((List.range 8).map fun i =>
      if ampPower bytes (89 + 10 * (8 * m + i)) ≤ ampPower bytes (84 + 10 * (8 * m + i)) then 2 ^ (7 - i) else 0).sum)

theorem transmission_scores {q : Nat} (hq : q + 4 < 2 ^ 64) {bytes : List Byte} (h : preambleShape bytes = true) :
    scoreAt (transmission q bytes).src (transmission q bytes).wpos.toNat = 8000000 ∧
      lowAt (transmission q bytes).src (transmission q bytes).wpos.toNat = 0 ∧
      scoreAt (transmission q bytes).src ((transmission q bytes).wpos.toNat + 1) = 0 := by
  simp only [preambleShape, decide_eq_true_eq] at h
  obtain ⟨h1, h2, h3, h4, h5, h6, h7, h8, h9, h10, h11, h12, h13, h14⟩ := h
  rw [transmission_wpos hq]
  unfold scoreAt lowAt
  simp only [Nat.add_assoc, Nat.reduceAdd]
  simp (disch := omega) only [power_transmission, *]
  decide

theorem transmission_preamble {q : Nat} (hq : q + 4 < 2 ^ 64) {bytes : List Byte} (h : preambleShape bytes = true) :
    preambleAt (transmission q bytes) := by
  obtain ⟨h1, h2, h3⟩ := transmission_scores hq h
  unfold preambleAt
  rw [h1, h2, h3]
  exact ⟨by decide, show 0 < 8000000 by decide, by decide⟩

theorem transmission_sliced {q : Nat} (hq : q + 4 < 2 ^ 64) {bytes : List Byte} (h : slicedShape bytes = true) {m : Nat}
    (hm : m < 14) :
    (bytes.getD m 0#8).toNat = byteAt (transmission q bytes).src (transmission q bytes).wpos.toNat m := by
  simp only [slicedShape, List.all_eq_true, List.mem_range, decide_eq_true_eq] at h
  rw [h m hm, transmission_wpos hq, byteAt]
  congr 1
  refine List.map_congr_left fun i hi => ?_
  have hi : i < 8 := List.mem_range.mp hi
  rw [show q + 4 + 85 + 10 * (8 * m + i) = q + (89 + 10 * (8 * m + i)) by omega,
    show q + 4 + 80 + 10 * (8 * m + i) = q + (84 + 10 * (8 * m + i)) by omega,
    power_transmission q bytes (by omega) (by omega), power_transmission q bytes (by omega) (by omega),
    wavePower_eq bytes (by omega), wavePower_eq bytes (by omega)]

/-- A frame of downlink format 18 with a valid CRC (95_test_vectors.md §2.6). -/
def otherFormat : List Byte :=
  [0x95#8, 0x12#8, 0x34#8, 0x56#8, 0x20#8, 0x00#8, 0x00#8, 0x00#8, 0x00#8, 0x00#8, 0x00#8, 0xFB#8, 0x9B#8, 0x12#8]

/-- F8 with its last bit flipped. -/
def flipped : List Byte := f8Bytes.take 13 ++ [0x99#8]

/-- An identification frame whose call sign is invalid (95_test_vectors.md §2.6). -/
def noCallSign : List Byte :=
  [0x8D#8, 0xAB#8, 0xCD#8, 0xEF#8, 0x20#8, 0x00#8, 0x00#8, 0x00#8, 0x00#8, 0x00#8, 0x00#8, 0xC8#8, 0x83#8, 0x05#8]

theorem shapes_f8 : preambleShape f8Bytes = true ∧ slicedShape f8Bytes = true := by decide +kernel

theorem shapes_otherFormat : preambleShape otherFormat = true ∧ slicedShape otherFormat = true := by decide +kernel

theorem shapes_flipped : preambleShape flipped = true ∧ slicedShape flipped = true := by decide +kernel

theorem shapes_noCallSign : preambleShape noCallSign = true ∧ slicedShape noCallSign = true := by decide +kernel

theorem transmission_frameAt {q : Nat} (hq : q + 4 < 2 ^ 64) {bytes : List Byte}
    (h : preambleShape bytes = true ∧ slicedShape bytes = true) (hlen : bytes.length = 14)
    (hdf : (bytes.getD 0 0#8).toNat / 8 = 17) (hcrc : bitcrc bytes = 0#24) : frameAt (transmission q bytes) bytes where
  clean := transmission_clean hq bytes
  points := transmission_points q bytes 224
  preamble := transmission_preamble hq h.1
  length := hlen
  sliced := fun _ hm => transmission_sliced hq h.2 hm
  df := by rw [← transmission_sliced hq h.2 (by decide)]; exact hdf
  crc := hcrc

/-! ## States that meet the hypotheses of the statements -/

/-- The state of a fault (95_test_vectors.md P4 step 2). -/
def faulted : State := after (.winGet 1200#16) start

/-- A state whose `CAUSE` is reserved. -/
def reserved : State := { start with faulted := true, cause := 16#8 }

theorem witness_StepRunsDecodedCommand :
    ({ start with inbox := [.issue [0x41#8], .eos] } : State).pending = none ∧ decode [0x41#8] = .ok .demNext := ⟨rfl, rfl⟩

theorem witness_DecodeOfEncodeIsTheCommand :
    (Instr.bsRange (List.replicate 255 0xA5#8) 0#8 255#8).wellFormed = true ∧
      (Instr.trkUpdate (.position 0#64 0#24 0#64 255#8 0x1FFFF#17 0x1FFFF#17)).wellFormed = true := by
  decide +kernel

theorem witness_IllegalOpcodeFaults :
    start.ready ∧ start.pending = none ∧ 0x00 ∉ tableOpcodes ∧ 0x35 ∉ tableOpcodes ∧ 0xFF ∉ tableOpcodes ∧
      0xF2 ∈ tableOpcodes := by
  decide

/-- Each action of the host at the head of its list, with and without a command that waits. -/
theorem witness_HostActions :
    start.cause.toNat < 16 ∧ ({ start with inbox := [.deliver [1#8]], eos := true } : State).pending = none ∧
      ({ start with inbox := [.eos] } : State).inbox = [.eos] ∧ ({ start with inbox := [.ioError] } : State).inbox = [.ioError] ∧
      start.inbox = [] ∧
      ({ start with pending := some .demNext, inbox := [.issue [0x34#8]] } : State).pending = some .demNext ∧
      ({ start with pending := some .winIsfull, inbox := [.ioError] } : State).pending = some .winIsfull := by
  decide

theorem witness_CommandsAnswerOnceTheStreamHasEnded :
    shortStream.cause.toNat < 16 ∧ shortStream.pending = none ∧ shortStream.eos = true ∧ start.eos = false ∧
      readsStream .trkLast = false := by
  decide

theorem witness_LaterBytesChangeNoAnswer :
    ∃ t, exec (.winGet 4#16) { shortStream with eos := false } = .next t ∧ t.resp ≠ none :=
  ⟨after (.winGet 4#16) { shortStream with eos := false }, rfl, by decide⟩

theorem witness_FaultsArePrecise :
    exec (.winGet 1200#16) start = .next faulted ∧ faulted.resp = some (.fault .winIndex 1200#64) := ⟨rfl, by decide⟩

theorem witness_OnlyTheListedCommandsRaiseACause :
    exec (.winGet 1200#16) start = .next faulted ∧ faulted.resp = some (.fault .winIndex 1200#64) := ⟨rfl, by decide⟩

theorem witness_FaultedBlockRefusesCommands :
    faulted.faulted = true ∧ faulted.cause.toNat < 16 ∧ Instr.pipeStep ≠ .blkStatus ∧ Instr.pipeStep ≠ .blkReset ∧
      16 ≤ reserved.cause.toNat ∧ ({ start with cause := 15#8 } : State).cause.toNat < 16 := by
  decide

theorem witness_TheFirstFaultStaysUntilReset :
    faulted.faulted = true ∧ faulted.pending = none ∧
      (∀ command, HostAct.issue command ∈ [HostAct.issue [0xF1#8], .eos] → decode command ≠ .ok .blkReset) ∧
      ∃ t, Host.Core.run Sys2Proof.core 3 { faulted with inbox := [.issue [0xF1#8], .eos] } = .next t := by
  refine ⟨by decide, by decide, fun command h => ?_, _, rfl⟩
  rcases List.mem_cons.mp h with h | h
  · cases h
    exact fun hd => by cases hd
  · simp at h

theorem witness_StatusAndResetRunWhenFaulted : faulted.faulted = true ∧ faulted.cause.toNat < 16 := by decide

theorem witness_ConfigReadsTheConstants :
    start.ready ∧ start.cfg = Config.optionsWith .n60 .n2 ∧ ([0xFFF409#64][(0#8 : BitVec 8).toNat]? = some 0xFFF409#64) ∧
      12 < (13#8 : BitVec 8).toNat := by
  decide

/-- A command outside every list, one that moves the window and one that pops an event; a response that is no fault. -/
theorem witness_EachStateIsChangedOnlyByItsCommands :
    exec .winPosition start = .next (after .winPosition start) ∧ movesWindow .winPosition = false ∧
      (after .winPosition start).resp = some (.normal .ok (.bits 64 0#64)) ∧ writesDState .winAdvance = false ∧
      writesFrame .winAdvance = false ∧ writesTable .evPop = false ∧ readsStream .frmTs = false ∧ Instr.evPop ≠ .blkReset :=
  ⟨rfl, by decide, by decide, by decide, by decide, by decide, by decide, by decide⟩

/-- A state with a frame, an aircraft and a command of the host has the invariant. -/
theorem witness_EveryStepKeepsTheInvariant :
    ∃ t, Inv { oneAircraft with frame := some f8, inbox := [.issue [0x34#8]] } ∧
      step { oneAircraft with frame := some f8, inbox := [.issue [0x34#8]] } = .next t := by
  refine ⟨_, ⟨fun _ => ⟨rfl, rfl⟩, by decide, ?_, by decide, ?_, by decide, by decide, by decide, by decide⟩, rfl⟩
  · intro f hf
    cases hf
    exact ⟨by decide, by decide, by decide, by decide +kernel⟩
  · intro e he
    cases List.mem_singleton.mp he
    exact ⟨by decide, by simp [AircraftState.fresh], by simp [AircraftState.fresh], by simp [AircraftState.fresh],
      by simp [AircraftState.fresh], by simp [AircraftState.fresh], by simp [AircraftState.fresh]⟩

/-- The sizes and places at the edges of the three clauses, two values that agree on the field, and a value of the size. -/
theorem witness_ExtractAndTestBitReadFields :
    start.ready ∧ ¬(0 < (0#8 : BitVec 8).toNat ∧ (0#8 : BitVec 8).toNat < 32) ∧ ¬((32#8 : BitVec 8).toNat < 32) ∧
      64 < (34#8 : BitVec 8).toNat + (31#8 : BitVec 8).toNat ∧ (33#8 : BitVec 8).toNat + (31#8 : BitVec 8).toNat ≤ 64 ∧
      (∀ k, k < 1 → (0x8000000000000000#64).getLsbD (63 + k) = (0xFFFFFFFFFFFFFFFF#64).getLsbD (63 + k)) ∧
      (0x7FFFFFFF#64).toNat < 2 ^ (31#8 : BitVec 8).toNat ∧ 64 ≤ (64#8 : BitVec 8).toNat ∧ (63#8 : BitVec 8).toNat < 64 := by
  decide

/-- A reversed range, one that leaves the sequence, one of nine bytes, one of eight and an empty one. -/
theorem witness_RangeReadsABigEndianInteger :
    start.ready ∧ f8Bytes.length ≤ 255 ∧ ¬(5 ≤ 4 ∧ 4 ≤ f8Bytes.length) ∧ ¬(0 ≤ 15 ∧ 15 ≤ f8Bytes.length) ∧
      (9 ≤ f8Bytes.length ∧ 8 < 9 - 0) ∧ (14 ≤ f8Bytes.length ∧ 14 - 6 ≤ 8) ∧ 14 - 14 ≤ 8 := by
  decide

theorem witness_TableHoldsTheBitwiseCrc : start.ready := by decide

theorem witness_ComputeAndCheckUseTheBitwiseCrc : start.ready ∧ bitcrc f8Bytes = 0#24 ∧ bitcrc flipped ≠ 0#24 := by
  decide +kernel

theorem witness_CrcSealsFramesAndSeesBitErrors : 13 < f8Bytes.length ∧ 7 < 8 := by decide

theorem witness_ConditionCentresASample :
    start.ready ∧ (0xFF#8 : BitVec 8).toNat + 256 * (0x0F#8 : BitVec 8).toNat ≤ 4095 ∧
      4095 < (0x00#8 : BitVec 8).toNat + 256 * (0x10#8 : BitVec 8).toNat := by
  decide

/-- Operands at both bounds, and one below at index 3. -/
theorem witness_PowerOfEightOperands :
    start.ready ∧ (∀ v ∈ [2047#16, 0xF800#16, 0#16, 1#16, 2#16, 3#16, 4#16, 5#16], -2048 ≤ v.toInt ∧ v.toInt ≤ 2047) ∧
      [0#16, 0#16, 0#16, 0xF7FF#16, 0#16, 0#16, 0#16, 9999#16][3]? = some 0xF7FF#16 ∧
      ¬(-2048 ≤ (0xF7FF#16 : BitVec 16).toInt ∧ (0xF7FF#16 : BitVec 16).toInt ≤ 2047) ∧
      (∀ w ∈ [0#16, 0#16, 0#16, 0xF7FF#16, 0#16, 0#16, 0#16, 9999#16].take 3, -2048 ≤ w.toInt ∧ w.toInt ≤ 2047) := by
  refine ⟨by decide, ?_, rfl, by simp [BitVec.toInt], ?_⟩ <;> simp [BitVec.toInt]

/-- Every raw word of the short stream is a 12-bit word. -/
theorem shortStream_legal (k : Nat) : legalPower shortStream.src k := by
  intro n _ _
  by_cases h : n < 10
  · interval_cases n <;> decide
  · have h0 : shortStream.src.length = 20 := by decide
    simp [List.getD_eq_getElem?_getD, List.getElem?_eq_none (show shortStream.src.length ≤ 2 * n by omega),
      List.getElem?_eq_none (show shortStream.src.length ≤ 2 * n + 1 by omega)]

theorem witness_PowerOfTheStream : legalPower shortStream.src 4 := shortStream_legal 4

/-- The stream of the range fault (95_test_vectors.md §2.3). -/
def badStream : State := { start with src := [0x00#8, 0x08#8, 0x00#8, 0x10#8], eos := true }

theorem badStream_illegal : firstIllegal badStream.src 0 1 0x1000 := by
  refine ⟨by decide, by decide, by decide, by decide, fun m _ hm => ?_⟩
  interval_cases m
  decide

/-- Index 1200 and 1199; the last power sample that is there and the first that is not, with and without end-of-stream; an illegal
word. -/
theorem witness_GetReadsTheWindow :
    shortStream.ready ∧ 1200 ≤ (1200#16 : BitVec 16).toNat ∧ (1199#16 : BitVec 16).toNat < 1200 ∧
      4 < powerCount shortStream.src ∧ legalPower shortStream.src 4 ∧ powerCount shortStream.src ≤ 5 ∧
      shortStream.eos = true ∧ powerCount start.src ≤ 0 ∧ start.eos = false ∧ badStream.ready ∧
      0 < powerCount badStream.src ∧ firstIllegal badStream.src 0 1 0x1000 :=
  ⟨by decide, by decide, by decide, by decide, shortStream_legal 4, by decide, by decide, by decide, by decide, by decide,
    by decide, badStream_illegal⟩

theorem transmission_legal (q : Nat) (bytes : List Byte) (k : Nat) : legalPower (transmission q bytes).src k :=
  fun n _ _ => transmission_word q bytes n

theorem transmission_ready (q : Nat) (bytes : List Byte) : (transmission q bytes).ready :=
  ⟨rfl, show (0#8 : BitVec 8).toNat < 16 by decide⟩

/-- 0, 5 and 6 steps over five power samples; the sixth is absent or awaited; an illegal word; a left edge past the stream; the last
64-bit position. -/
theorem witness_AdvanceMovesTheLeftEdge :
    shortStream.ready ∧ (∀ k, 0 ≤ k → k < 0 + (5#32 : BitVec 32).toNat → legalPower shortStream.src k) ∧
      0 + (5#32 : BitVec 32).toNat ≤ powerCount shortStream.src ∧ 5 = powerCount shortStream.src ∧
      5 < 0 + (6#32 : BitVec 32).toNat ∧ shortStream.eos = true ∧
      ({ shortStream with eos := false } : State).ready ∧ badStream.ready ∧ 0 < powerCount badStream.src ∧
      firstIllegal badStream.src 0 1 0x1000 ∧ powerCount ({ shortStream with wpos := 6#64 } : State).src < 6 ∧
      ∀ q, q = 2 ^ 64 - 5 → (transmission q f8Bytes).ready ∧ (transmission q f8Bytes).wpos.toNat + 1 = 2 ^ 64 ∧
        2 ^ 64 ≤ powerCount (transmission q f8Bytes).src ∧ ∀ j, legalPower (transmission q f8Bytes).src j := by
  refine ⟨by decide, fun k _ _ => shortStream_legal k, by decide, by decide, by decide, by decide, by decide, by decide, by decide,
    badStream_illegal, by decide, fun q hq => ⟨transmission_ready _ _, ?_, ?_, transmission_legal _ _⟩⟩
  · rw [transmission_wpos (by omega)]
    omega
  · rw [transmission_powerCount]
    omega

/-- 4800 bytes: full at 0, not full at 1, with and without end-of-stream. -/
theorem witness_IsFullAndPosition :
    start.ready ∧ (0#64 : BitVec 64).toNat + 1200 ≤ powerCount (List.replicate 4800 (0#8 : Byte)) ∧
      powerCount (List.replicate 4800 (0#8 : Byte)) < (1#64 : BitVec 64).toNat + 1200 ∧ shortStream.eos = true ∧
      start.eos = false := by
  simp only [powerCount, List.length_replicate]
  decide

theorem witness_TheWindowNeverMovesBack :
    Instr.winAdvance ≠ .blkReset ∧ exec .winAdvance shortStream = .next (after .winAdvance shortStream) :=
  ⟨by decide, rfl⟩

theorem witness_SizeSelectsDownlinkFormat17 : start.ready := by decide

theorem witness_DemodulatorEndsAtTheEndOfInput :
    shortStream.ready ∧ shortStream.dstate = .scanning ∧ shortStream.eos = true ∧
      powerCount shortStream.src < shortStream.wpos.toNat + 1200 ∧
      ({ start with dstate := .done, eos := true } : State).ready ∧
      exec .blkReset { start with dstate := .done, eos := true } = .next (after .blkReset { start with dstate := .done, eos := true }) ∧
      step { start with dstate := .done, eos := true } = .next { start with dstate := .done, eos := true } :=
  ⟨by decide, by decide, by decide, by decide, by decide, rfl, rfl⟩

theorem f8_frameAt {q : Nat} (hq : q + 4 < 2 ^ 64) : frameAt (transmission q f8Bytes) f8Bytes :=
  transmission_frameAt hq shapes_f8 (by decide) (by decide) (by decide +kernel)

/-- F8 at power sample 4, and at the last position whose timestamp fits and the first whose timestamp does not. -/
theorem witness_DemodulatorReturnsTheFrameAtTheLeftEdge :
    (transmission 0 f8Bytes).ready ∧ frameAt (transmission 0 f8Bytes) f8Bytes ∧
      (frameAt (transmission 92233720368547754 f8Bytes) f8Bytes ∧
        (transmission 92233720368547754 f8Bytes).wpos.toNat * 100 < 2 ^ 63) ∧
      (frameAt (transmission 92233720368547755 f8Bytes) f8Bytes ∧
        2 ^ 63 ≤ (transmission 92233720368547755 f8Bytes).wpos.toNat * 100) := by
  refine ⟨transmission_ready _ _, f8_frameAt (by decide), ⟨f8_frameAt (by decide), ?_⟩, f8_frameAt (by decide), ?_⟩ <;>
    rw [transmission_wpos (by decide)] <;> decide

/-- The stream of a frame, scanned from two positions before it, where the scores are 0. -/
def earlier (bytes : List Byte) : State := { start with src := wave bytes, eos := true, wpos := 2#64 }

theorem wave_legal (bytes : List Byte) (n : Nat) : rawWord (wave bytes) n ≤ Config.sampleMax := by
  rw [rawWord_eq]
  exact wave_word bytes n

theorem sliceBit_wave (bytes : List Byte) {j : Nat} (hj : j < 112) :
    sliceBit (wave bytes) 4 j = decide (ampPower bytes (4 + 80 + 10 * j + 5) ≤ ampPower bytes (4 + 80 + 10 * j)) := by
  unfold sliceBit Config.bitBase Config.bitPitch Config.halfBit
  rw [power_wave bytes (by omega), power_wave bytes (by omega), wavePower_eq bytes (by omega), wavePower_eq bytes (by omega)]

/-- The bytes as `DEM.NEXT` slices them. -/
def slicedWave (bytes : List Byte) (m : Nat) : Byte :=
  (List.range 8).foldl (fun b i => (b <<< 1) ||| (BitVec.ofBool
    (decide (ampPower bytes (4 + 80 + 10 * (8 * m + i) + 5) ≤ ampPower bytes (4 + 80 + 10 * (8 * m + i))))).setWidth 8) 0#8

theorem sliceByte_wave (bytes : List Byte) {m : Nat} (hm : m < 14) : sliceByte (wave bytes) 4 m = slicedWave bytes m := by
  unfold sliceByte slicedWave
  refine List.foldl_ext _ _ _ fun b i hi => ?_
  have hi : i < 8 := List.mem_range.mp hi
  rw [sliceBit_wave bytes (by omega)]

/-- The powers that the scores of the two earlier positions are made of. -/
def earlierShape (bytes : List Byte) : Bool := [2, 12, 37, 47, 3, 13, 38, 48].all fun k => wavePower bytes k == 0

theorem earlier_scores {bytes : List Byte} (h : preambleShape bytes = true) (he : earlierShape bytes = true) :
    score (wave bytes) 2 = 0 ∧ score (wave bytes) 3 = 0 ∧ score (wave bytes) 4 = 8000000 ∧ score (wave bytes) 5 = 0 ∧
      lowSum (wave bytes) 4 = 0 := by
  simp only [preambleShape, decide_eq_true_eq] at h
  simp only [earlierShape, List.all_cons, List.all_nil, Bool.and_true, Bool.and_eq_true, beq_iff_eq] at he
  obtain ⟨h1, h2, h3, h4, h5, h6, h7, h8, h9, h10, h11, h12, h13, h14⟩ := h
  obtain ⟨e1, e2, e3, e4, e5, e6, e7, e8⟩ := he
  unfold score lowSum Config.highOffs Config.lowOffs
  simp only [List.map_cons, List.map_nil, Nat.reduceAdd]
  simp (disch := decide) only [power_wave, *]
  decide

/-- 95_test_vectors.md §2.5, §2.6: `DEM.NEXT` passes two positions by, finds the frame at position 4 (ts 400), and skips. -/
theorem dem_next_finds {bytes : List Byte} (hp : preambleShape bytes = true) (he : earlierShape bytes = true)
    (hs : (List.range Config.frameBytes).map (slicedWave bytes) = bytes)
    (hsize : frameSize (slicedWave bytes 0) = Config.frameBytes) (hcrc : crcBytes bytes = 0#24) :
    exec .demNext (earlier bytes) = .next { earlier bytes with
      wpos := 1204#64, dprev := .stale, frame := some ⟨400#64, bytes⟩, taken := 1200
      resp := some (.normal .ok (.frame ⟨400#64, bytes⟩)) } := by
  obtain ⟨h2, h3, h4, h5, hlow⟩ := earlier_scores hp he
  have hcount : powerCount (wave bytes) = 1204 := by unfold powerCount; rw [wave_length]
  have hpos : fullPositions (wave bytes) 2 = 3 := by unfold fullPositions Config.window; rw [hcount]
  have hb0 : frameSize (sliceByte (wave bytes) 4 0) = Config.frameBytes := by
    rw [sliceByte_wave bytes (m := 0) (by decide)]
    exact hsize
  have hbytes : (List.range Config.frameBytes).map (sliceByte (wave bytes) 4) = bytes :=
    (List.map_congr_left fun m hm => sliceByte_wave bytes (List.mem_range.mp hm)).trans hs
  have e2 : examine (wave bytes) true .recompute 2 (.score 0#32) = .done (.rejected 0 49) := by
    rw [examine_of_legal (wave_legal bytes) true .recompute (by omega), if_neg (by simp [accepts, h2]), h2]
  have e3 : examine (wave bytes) true .recompute 3 (.score 0#32) = .done (.rejected 0 50) := by
    rw [examine_of_legal (wave_legal bytes) true .recompute (by omega), if_neg (by simp [accepts, h3]), h3]
  have e4 : examine (wave bytes) true .recompute 4 (.score 0#32) = .done (.found bytes 1200) := by
    rw [examine_of_legal (wave_legal bytes) true .recompute (by omega),
      if_pos (by simp [accepts, resolvePrev, h4, h5, hlow]), if_pos hb0, hbytes, if_pos hcrc]
  have hscan : scan (wave bytes) true .recompute 3 2 (.score 0#32) 0 = .done (.frame 4 bytes 1200) := by
    rw [scan_rejected e2, if_neg (by decide), scan_rejected e3, if_neg (by decide), scan_found e4, if_neg (by decide)]
    rfl
  have hrun : demRun (earlier bytes) = .done ({ earlier bytes with
      wpos := 1204#64, dprev := .stale, frame := some ⟨400#64, bytes⟩, taken := 1200 }, some ⟨400#64, bytes⟩) := by
    have hstart : scan (earlier bytes).src (earlier bytes).eos (earlier bytes).cfg.skipPrev
        (fullPositions (earlier bytes).src (earlier bytes).wpos.toNat) (earlier bytes).wpos.toNat (earlier bytes).dprev
        (earlier bytes).taken = .done (.frame 4 bytes 1200) := by
      rw [← hscan, ← hpos]
      rfl
    rw [demRun, hstart]
    rfl
  have hready : (earlier bytes).ready := ⟨rfl, show (0#8 : BitVec 8).toNat < 16 by decide⟩
  rw [exec, execDemNext, guarded_ready hready, hrun]
  rfl

theorem test_dem_next_finds_a_frame :
    exec .demNext (earlier f8Bytes) = .next { earlier f8Bytes with
      wpos := 1204#64, dprev := .stale, frame := some ⟨400#64, f8Bytes⟩, taken := 1200
      resp := some (.normal .ok (.frame ⟨400#64, f8Bytes⟩)) } :=
  dem_next_finds shapes_f8.1 (by decide +kernel) (by decide +kernel) (by decide +kernel) (by decide +kernel)

theorem earlier_noCallSign :
    exec .demNext (earlier noCallSign) = .next { earlier noCallSign with
      wpos := 1204#64, dprev := .stale, frame := some ⟨400#64, noCallSign⟩, taken := 1200
      resp := some (.normal .ok (.frame ⟨400#64, noCallSign⟩)) } :=
  dem_next_finds shapes_noCallSign.1 (by decide +kernel) (by decide +kernel) (by decide +kernel) (by decide +kernel)

/-- A plateau at the left edge. -/
theorem witness_APlateauIsNeverAccepted :
    ∃ t f, (earlier f8Bytes).dstate = .scanning ∧ (earlier f8Bytes).wpos.toNat ≤ 2 ∧
      scoreAt (earlier f8Bytes).src 2 = scoreAt (earlier f8Bytes).src (2 + 1) ∧
      exec .demNext (earlier f8Bytes) = .next t ∧ t.resp = some (.normal .ok (.frame f)) := by
  refine ⟨_, _, rfl, by decide, ?_, test_dem_next_finds_a_frame, rfl⟩
  show scoreAt (wave f8Bytes) 2 = scoreAt (wave f8Bytes) 3
  unfold scoreAt
  simp (disch := decide) only [power_wave]
  decide +kernel

/-- The four clauses: a negative timestamp, another format, a wrong CRC, a good record at the largest timestamp. -/
theorem witness_InjectChecksAndStoresARecord :
    start.ready ∧ 2 ^ 63 ≤ (0x8000000000000000#64).toNat ∧ (0x7FFFFFFFFFFFFFFF#64).toNat < 2 ^ 63 ∧
      (otherFormat.length = 14 ∧ (otherFormat.getD 0 0#8).toNat / 8 ≠ 17) ∧
      (flipped.length = 14 ∧ (flipped.getD 0 0#8).toNat / 8 = 17 ∧ bitcrc flipped ≠ 0#24) ∧
      (f8Bytes.length = 14 ∧ (f8Bytes.getD 0 0#8).toNat / 8 = 17 ∧ bitcrc f8Bytes = 0#24) := by
  decide +kernel

theorem witness_AccessorsReadTheFrame :
    start.ready ∧ start.frame = none ∧ withF8.ready ∧ withF8.frame = some f8 ∧ f8.bytes.length = 14 := by
  decide

/-- Frames whose type code is `tc` and whose subtype is `st` (their CRC plays no part here). -/
def typed (tc st : Nat) (rest : List Byte) : Frame :=
  ⟨0#64, [0x8D#8, 0#8, 0#8, 1#8, BitVec.ofNat 8 (tc * 8 + st)] ++ rest ++ List.replicate (9 - rest.length) 0#8⟩

/-- The type codes and subtypes at the edges: 0, 5, 8, 23, 31; 19 with 0, 5, 7. -/
theorem witness_OtherTypeCodesAreDiscarded :
    withF8.ready ∧ (∀ tc ∈ [0, 5, 8, 23, 31], (typed tc 0 []).bytes.length = 14 ∧ meField (typed tc 0 []) 55 51 = tc) ∧
      (∀ st ∈ [0, 5, 7], meField (typed 19 st []) 55 51 = 19 ∧ meField (typed 19 st []) 50 48 = st) := by
  decide +kernel

/-- Type codes 1 and 4; a call sign with an invalid character, and one without. -/
theorem witness_IdentificationIsDecoded :
    withF8.ready ∧ withF8.frame = some f8 ∧ f8.bytes.length = 14 ∧ meField f8 55 51 = 4 ∧ meField (typed 1 0 []) 55 51 = 1 ∧
      0x3F#8 ∈ callSignChars (typed 1 0 []) ∧ 0x3F#8 ∉ callSignChars f8 := by
  decide +kernel

/-- Subtypes 1 and 2; a missing component, and the four axes. -/
theorem witness_GroundVelocityIsDecoded :
    (withFrame (typed 19 1 [0x04#8, 0xA0#8, 0x14#8, 0#8, 0#8]).bytes).ready ∧
      meField (typed 19 2 []) 50 48 = 2 ∧ meField (typed 19 1 []) 50 48 = 1 ∧ meField (typed 19 1 []) 41 32 = 0 ∧
      start.cfg.gsFactorSt2.toNat = 1 ∧
      (∀ e ∈ [(0x00#8, 0x65#8, 0x00#8, 0x20#8, 101, 1), (0x04#8, 0x65#8, 0x00#8, 0x20#8, 101, 1),
          (0x00#8, 0x01#8, 0x0C#8, 0xA0#8, 1, 101), (0x00#8, 0x01#8, 0x8C#8, 0xA0#8, 1, 101)],
        meField (typed 19 1 [e.1, e.2.1, e.2.2.1, e.2.2.2.1]) 41 32 = e.2.2.2.2.1 ∧
          meField (typed 19 1 [e.1, e.2.1, e.2.2.1, e.2.2.2.1]) 30 21 = e.2.2.2.2.2) := by
  decide +kernel

/-- Subtypes 3 and 4; no heading, no airspeed, and the quarter turns. -/
theorem witness_AirVelocityIsDecoded :
    withF8.ready ∧ meField (typed 19 3 []) 50 48 = 3 ∧ meField (typed 19 4 []) 50 48 = 4 ∧ start.cfg.asFactorSt4.toNat = 2 ∧
      meField (typed 19 3 []) 42 42 = 0 ∧
      (meField (typed 19 3 [0x04#8]) 42 42 = 1 ∧ meField (typed 19 3 [0x04#8]) 30 21 = 0) ∧
      (∀ h ∈ [(0x04#8, 0), (0x05#8, 256), (0x06#8, 512), (0x07#8, 768)],
        meField (typed 19 3 [h.1, 0#8, 0x19#8, 0x20#8]) 41 32 = h.2 ∧
          meField (typed 19 3 [h.1, 0#8, 0x19#8, 0x20#8]) 30 21 = 201) := by
  decide +kernel

/-- Type codes 9, 18, 20 and 22; no altitude, one above and one below 0. -/
theorem witness_PositionIsDecoded :
    withF8.ready ∧ (∀ tc ∈ [9, 18, 20, 22], meField (typed tc 0 []) 55 51 = tc ∧ (typed tc 0 []).bytes.length = 14) ∧
      altitudeFt (BitVec.ofNat 12 (meField (typed 9 0 []) 47 36)) = none ∧
      altitudeFt (BitVec.ofNat 12 (meField (typed 9 0 [0xC3#8, 0x80#8]) 47 36)) = some 38000 ∧
      altitudeFt (BitVec.ofNat 12 (meField (typed 9 0 [0x08#8, 0x00#8]) 47 36)) = some (-1200) := by
  decide +kernel

theorem witness_DecodedMessagesPassTheChecks :
    f8.ts.toNat < 2 ^ 63 ∧ ∃ m, decodeFrame start.cfg f8 = .message m := by
  exact ⟨by decide, _, rfl⟩

/-- A fraction far below the smallest subnormal number, and the largest finite number. -/
theorem witness_FractionsRoundToNearestEven :
    (0 < 3 ^ 1000 ∧ 1 < 3 ^ 1000 * (2 ^ 1024 - 2 ^ 970)) ∧ (0 < 1 ∧ 2 ^ 1024 - 2 ^ 971 < 1 * (2 ^ 1024 - 2 ^ 970)) := by
  decide +kernel

theorem witness_CharReadsTheAlphabet :
    start.ready ∧ 63 < (64#8 : BitVec 8).toNat ∧ (63#8 : BitVec 8).toNat ≤ 63 ∧ alphabetTable.length = 64 := by
  decide

/-- The edges of the clauses; 0x084 has the coarse number 255 and the fine number 1, 0x000 the fine number 0
(47_position_altitude.md R764), and 0x20A the coarse number 2 and the fine number 3 by R766. -/
theorem witness_AltitudeIsDecoded :
    start.ready ∧ 0xFFF < (0x1000#16).toNat ∧ ((0xFFF#16).toNat ≤ 0xFFF ∧ (0xFFF#16).getLsbD 4 = true) ∧
      (∀ e ∈ [(0x084#16, 255#16, 1#16), (0x000#16, 0#16, 0#16), (0x20A#16, 2#16, 3#16), (0x880#16, 0#16, 6#16),
          (0x800#16, 0#16, 7#16)],
        e.1.toNat ≤ 0xFFF ∧ e.1.getLsbD 4 = false ∧ e.2.1.toNat < 512 ∧ e.2.2.toNat < 8 ∧
          [4, 2, 0, 10, 8, 6, 5, 3, 1].map e.1.getLsbD = (List.range 9).map (fun k => (grayEncode e.2.1).getLsbD (8 - k)) ∧
          [11, 9, 7].map e.1.getLsbD = (List.range 3).map (fun k => (grayEncode e.2.2).getLsbD (2 - k))) := by
  refine ⟨by decide, by decide, by decide, fun e he => ?_⟩
  simp only [List.mem_cons, List.not_mem_nil, or_false] at he
  obtain rfl | rfl | rfl | rfl | rfl := he <;> decide

/-- 0 ft and 100 ft (47_position_altitude.md R764). -/
theorem witness_GillhamCodesAreAGrayCode :
    (0x20A#12).getLsbD 4 = false ∧ (0xA0A#12).getLsbD 4 = false ∧ altitudeFt 0x20A#12 = some 0 ∧
      altitudeFt 0xA0A#12 = some (0 + 100) := by
  decide

theorem witness_GrayDecodeInvertsTheGrayCode :
    start.ready ∧ ¬(1 ≤ (0#8 : BitVec 8).toNat ∧ (0#8 : BitVec 8).toNat ≤ 16) ∧ ¬((17#8 : BitVec 8).toNat ≤ 16) ∧
      2 ^ (3#8 : BitVec 8).toNat ≤ (8#16).toNat ∧ (7#16).toNat < 2 ^ (3#8 : BitVec 8).toNat ∧
      (0xFFFF#16).toNat < 2 ^ (16#8 : BitVec 8).toNat ∧ (1#16).toNat < 2 ^ (1#8 : BitVec 8).toNat := by
  decide

theorem isRound_zero (tie : Config.RoundTie) : isRound tie 0 0 := .inl (by norm_num)

theorem localFraction_zero : localFraction 0#17 = 0 := by simp [localFraction]

theorem zoneTurns_zero (zones : Nat) : zoneTurns zones 0 0#17 = 0 := by
  simp [zoneTurns, localFraction_zero, wrapTurns]

/-- Four zero operands: both latitudes 0, the zone count `NL_EQUATOR`, everything rounds to 0. -/
theorem witness_MergeIsExactRationalArithmetic :
    start.ready ∧ isRound start.cfg.roundTie (59 * localFraction 0#17 - 60 * localFraction 0#17) 0 ∧
      zoneTurns 60 0 0#17 = 0 ∧ zoneTurns 59 0 0#17 = 0 ∧ zonesAt start.cfg 0 = 60 ∧
      isRound start.cfg.roundTie (localFraction 0#17 * ((60 : Nat) - 1) - localFraction 0#17 * (60 : Nat)) 0 ∧
      longitudeTurns 60 60 0 0#17 = 0 ∧ isRound start.cfg.roundTie (0 * 2 ^ 32) 0 ∧ |(0 : ℤ)| ≤ 2 ^ 30 := by
  refine ⟨by decide, ?_, zoneTurns_zero 60, zoneTurns_zero 59, ?_, ?_, ?_, ?_, by decide⟩
  · simpa [localFraction_zero] using isRound_zero _
  · simp [zonesAt, start, Config.optionsWith]
  · simpa [localFraction_zero] using isRound_zero _
  · simp [longitudeTurns, zoneTurns_zero]
  · simpa using isRound_zero _

theorem witness_MergeAlwaysAnswersInBounds : start.ready ∧ 1 ≤ 1 ∧ 60 ≤ 60 := by decide

/-- The equator and just beside it, 45°, ±87°, just above it and 90° (48_cpr.md R806). -/
theorem witness_ZoneCountIsSymmetricAndFalls :
    0 < 120 ∧ (0 : ℤ).natAbs ≤ (29 : ℤ).natAbs ∧ 4 * (29 : ℤ).natAbs ≤ 120 ∧ 4 * (30 : ℤ).natAbs ≤ 120 ∧
      8 * (-15 : ℤ).natAbs = 120 ∧ 120 * (-29 : ℤ).natAbs = 29 * 120 ∧
      29 * 120 < 120 * (30 : ℤ).natAbs ∧ 2 * (60 : ℤ).natAbs ≤ 120 ∧
      ((59, 0.029084642499913263) ∈ transitions ∧ (0 : ℚ) < 1 / 120 ∧ (1 / 120 : ℚ) < 0.029084642499913263 ∧
        ∀ phi, (59 + 1, phi) ∈ transitions → phi < 1 / 120) ∧
      ((42, 0.12651740896278482) ∈ transitions ∧ (15 / 120 : ℚ) < 0.12651740896278482 ∧
        ∀ phi, (42 + 1, phi) ∈ transitions → phi < 15 / 120) ∧
      ((3, 0.24037602770866948) ∈ transitions ∧ (0.24037602770866948 : ℚ) < 241 / 1000 ∧ 120 * (241 : ℤ).natAbs < 29 * 1000) := by
  refine ⟨by decide, by decide, by decide, by decide, by decide, by decide, by decide, by decide, ?_, ?_, ?_⟩ <;>
    norm_num [transitions, transitionsHigh, transitionsLow]

theorem witness_UpdateChecksItsOperand :
    start.ready ∧ 2 ^ 63 ≤ (0x8000000000000000#64).toNat ∧ (5#64).toNat < 2 ^ 63 ∧ 8 < (List.replicate 9 0x41#8).length ∧
      ((List.replicate 8 0x41#8).length ≤ 8 ∧ ∃ c ∈ [0x6E#8, 0x31#8], callSignChar c = false) ∧ 1 < (2#8).toNat ∧
      ((1#8).toNat ≤ 1 ∧ f64IsNaN f64NaN = true) ∧ f64NonNeg 0xBFF0000000000000#64 = false ∧ f64NonNeg f64NaN = false ∧
      (f64NonNeg 0#64 = true ∧ f64IsAngle 0x401921FB54442D18#64 = false) := by
  decide

theorem witness_FieldChecksMeanTheirInequalities :
    f64Finite 0x8000000000000000#64 ∧ f64IsNaN f64NaN = true ∧ f64IsAngle 0x401921FB54442D17#64 = true := by
  unfold f64Finite
  decide

theorem witness_UpdateRecordsIdentAndVelocity :
    start.ready ∧ (0x7FFFFFFFFFFFFFFF#64).toNat < 2 ^ 63 ∧ tableGet 0xA1B2C3#24 start.table = none ∧
      tableGet 0xA1B2C3#24 oneAircraft.table = some (AircraftState.fresh 5#64) ∧ oneAircraft.ready ∧
      ((List.replicate 8 0x41#8).length ≤ 8 ∧ (List.replicate 8 0x41#8).all callSignChar = true) ∧
      (f64NonNeg 0#64 = true ∧ f64IsAngle 0x8000000000000000#64 = true) := by
  decide

/-- A position message of P3 at a time. -/
def p3Message (ts : Ts) (parity : Parity) : PositionMsg := ⟨ts, 0xA1B2C3#24, 0x40C69F3333333333#64, parity, 1000#17, 1000#17⟩

/-- No other message; one 10 s before, one 10 s and 1 ns before; a merge that is indeterminate. -/
theorem witness_UpdateRecordsAPosition :
    start.ready ∧ f64IsNaN 0x40C69F3333333333#64 = false ∧ tableGet 0xA1B2C3#24 start.table = none ∧
      (∃ geo, cprMerge start.cfg 1000#17 1000#17 1000#17 1000#17 .odd = .position geo) ∧
      |((20000000000#64).toNat : ℤ) - (10000000000#64).toNat| ≤ 10000000000 ∧
      10000000000 < |((30000000001#64).toNat : ℤ) - (20000000000#64).toNat| ∧
      cprMerge start.cfg 0#17 0#17 0#17 100000#17 .even = .indeterminate .indetZone :=
  ⟨by decide, by decide, by decide, ⟨⟨564966#32, 555390#32⟩, by decide +kernel⟩, by decide, by decide, by decide +kernel⟩

theorem witness_PairsWithinTenSecondsMerge :
    start.ready ∧ tableGet 0xA1B2C3#24 start.table = none ∧ f64IsNaN 0x40C69F3333333333#64 = false ∧
      (1000000000#64).toNat + 15000000000 < 2 ^ 63 ∧
      ∃ t u, exec (.trkUpdate (.position 1000000000#64 0xA1B2C3#24 0x40C69F3333333333#64 (BitVec.ofNat 8 0) 1000#17 1000#17)) start
          = .next t ∧
        exec (.trkUpdate (.position (1000000000#64 + BitVec.ofNat 64 2000000000) 0xA1B2C3#24 0x40C69F3333333333#64
          (BitVec.ofNat 8 (1 - 0)) 1000#17 1000#17)) t = .next u :=
  ⟨by decide, by decide, by decide, by decide, _, _, rfl, rfl⟩

theorem witness_PurgeRemovesStaleEntries :
    oneAircraft.ready ∧ tableWf oneAircraft.table ∧ 2 ^ 63 ≤ (0x8000000000000000#64).toNat ∧
      (60000000006#64).toNat < 2 ^ 63 := by
  decide

theorem witness_TrackerAndEventReads :
    oneAircraft.ready ∧ tableWf oneAircraft.table ∧ (0xA1B2C3#24, AircraftState.fresh 5#64) ∈ oneAircraft.table ∧
      (∀ e ∈ oneAircraft.table, e.1 ≠ 1#24) ∧ oneAircraft.ev = [] ∧
      ({ start with ev := [.remove 1#24] } : State).ev = .remove 1#24 :: [] := by
  decide

theorem witness_EventsAreEmittedByTheTrackerOnly :
    exec (.trkPurge 60000000006#64) oneAircraft = .next (after (.trkPurge 60000000006#64) oneAircraft) ∧
      (after (.trkPurge 60000000006#64) oneAircraft).resp = some (.normal .ok (.bits 32 1#32)) ∧
      exec (.trkUpdate (.ident 5#64 1#24 80#8 [])) start = .next (after (.trkUpdate (.ident 5#64 1#24 80#8 [])) start) ∧
      (after (.trkUpdate (.ident 5#64 1#24 80#8 [])) start).resp = some (.normal .ok .empty) ∧
      exec .evPop start = .next (after .evPop start) ∧ exec .blkReset start = .next (after .blkReset start) ∧
      exec .pipeStep shortStream = .next (after .pipeStep shortStream) ∧
      exec .trkLast start = .next (after .trkLast start) :=
  ⟨rfl, by decide, rfl, by decide, rfl, rfl, rfl, rfl⟩

/-- `DEM.NEXT` finds a frame after two positions, one whose message is discarded and one whose message reaches the tracker; a frame
at the left edge; the end of the input; a wait. -/
theorem witness_PipeStepRunsTheThreeStages :
    (∃ t f, exec .demNext (earlier noCallSign) = .next t ∧ t.resp = some (.normal .ok (.frame f)) ∧
        decodeFrame (earlier noCallSign).cfg f = .discard .discCallsign) ∧
      (∃ t f m, exec .demNext (earlier f8Bytes) = .next t ∧ t.resp = some (.normal .ok (.frame f)) ∧
        decodeFrame (earlier f8Bytes).cfg f = .message m) ∧
      ((transmission 0 f8Bytes).ready ∧ frameAt (transmission 0 f8Bytes) f8Bytes ∧
        (transmission 0 f8Bytes).wpos.toNat * 100 < 2 ^ 63) ∧
      (∃ t, shortStream.ready ∧ exec .demNext shortStream = .next t ∧ t.resp = some (.normal .fin .empty)) ∧
      ∃ t, start.ready ∧ exec .demNext start = .next t ∧ t.resp = none := by
  have h4 : 0 + 4 < 2 ^ 64 := by decide
  exact ⟨⟨_, _, earlier_noCallSign, rfl, by decide +kernel⟩, ⟨_, _, _, test_dem_next_finds_a_frame, rfl, rfl⟩,
    ⟨transmission_ready _ _, f8_frameAt h4, by rw [transmission_wpos h4]; decide⟩, ⟨_, by decide, rfl, rfl⟩, _, by decide, rfl, rfl⟩

/-! ## A bad sample in the middle of a transmission -/

/-- The stream of a frame, with the high byte of raw word 162, the first that message bit 0 needs, set to 0x10. -/
@[irreducible] def badWave : List Byte := (List.range 4816).map fun n => if n = 325 then 0x10#8 else waveByte f8Bytes n

def badMessage : State := { start with src := badWave, wpos := 4#64 }

theorem badWave_length : badWave.length = 4816 := by
  unfold badWave
  rw [List.length_map, List.length_range]

theorem srcByte_badWave {n : Nat} (hn : n < 4816) :
    srcByte badWave n = if n = 325 then 0x10 else (waveByte f8Bytes n).toNat := by
  unfold badWave
  rw [srcByte_map_range, if_pos hn]
  split <;> rfl

theorem badWave_word {n : Nat} (hn : n < 162) : srcByte badWave (2 * n) + 256 * srcByte badWave (2 * n + 1) ≤ 4095 := by
  rw [srcByte_badWave (by omega), srcByte_badWave (by omega), if_neg (by omega), if_neg (by omega)]
  have := wave_word f8Bytes n
  rwa [srcByte_wave, srcByte_wave, if_pos (by omega), if_pos (by omega)] at this

theorem power_badWave {k : Nat} (hk : k ≤ 80) : power badWave k = wavePower f8Bytes k :=
  power_congr fun n hn => by rw [srcByte_badWave (by omega), if_neg (by omega)]

theorem badMessage_ready : badMessage.ready := ⟨rfl, show (0#8 : BitVec 8).toNat < 16 by decide⟩

theorem badMessage_full : badMessage.wpos.toNat + 1200 ≤ powerCount badMessage.src := by
  show 4 + 1200 ≤ powerCount badWave
  rw [powerCount, badWave_length]

theorem badMessage_legal (k : Nat) (hk : k ∈ [4, 14, 39, 49] ++ [5, 15, 40, 50] ++ [9, 19, 24, 29, 34, 44]) :
    legalPower badWave k := by
  intro n _ _
  simp at hk
  exact badWave_word (by omega)

theorem badMessage_illegal : firstIllegal badWave 84 162 (srcByte badWave 324 + 4096) := by
  refine ⟨by decide, by decide, ?_, by omega, fun m h1 h2 => badWave_word (by omega)⟩
  show _ = srcByte badWave (2 * 162) + 256 * srcByte badWave (2 * 162 + 1)
  rw [srcByte_badWave (n := 2 * 162 + 1) (by decide), if_pos rfl]

theorem badMessage_score : scoreAt badWave 4 = 8000000 := by
  have h := shapes_f8.1
  simp only [preambleShape, decide_eq_true_eq] at h
  obtain ⟨h1, h2, h3, h4, h5, h6, h7, h8, h9, h10, h11, h12, h13, h14⟩ := h
  unfold scoreAt
  simp only [Nat.reduceAdd]
  simp (disch := decide) only [power_badWave, *]

theorem badMessage_preamble : preambleAt badMessage := by
  have h := shapes_f8.1
  simp only [preambleShape, decide_eq_true_eq] at h
  obtain ⟨h1, h2, h3, h4, h5, h6, h7, h8, h9, h10, h11, h12, h13, h14⟩ := h
  show 2 * lowAt badWave 4 ≤ scoreAt badWave 4 ∧ 0 < scoreAt badWave 4 ∧ scoreAt badWave (4 + 1) < scoreAt badWave 4
  unfold scoreAt lowAt
  simp only [Nat.reduceAdd]
  simp (disch := decide) only [power_badWave, *]
  decide

/-- A window that is not full; an illegal word in the first sample of the preamble test; one in the first of message bit 0. -/
theorem witness_DemodulatorWaitsAndReportsBadSamples :
    (start.ready ∧ start.dstate = .scanning ∧ start.eos = false ∧ powerCount start.src < start.wpos.toNat + 1200) ∧
      (badStream.ready ∧ (∀ rest, rest = List.replicate 4796 (0#8 : Byte) → ∀ s : State,
        s = { badStream with src := badStream.src ++ rest } → s.ready ∧ s.dstate = .scanning ∧
          s.wpos.toNat + 1200 ≤ powerCount s.src ∧ (preambleOrder s)[0]? = some 0 ∧
          (∀ k' ∈ (preambleOrder s).take 0, legalPower s.src k') ∧ firstIllegal s.src 0 1 0x1000)) ∧
      (badMessage.ready ∧ badMessage.dstate = .scanning ∧ badMessage.wpos.toNat + 1200 ≤ powerCount badMessage.src ∧
        (∀ k ∈ preambleOrder badMessage, legalPower badMessage.src k) ∧ preambleAt badMessage ∧
        legalPoints badMessage 0 ∧
        firstIllegal badMessage.src (badMessage.wpos.toNat + 80 + 5 * 0) 162 (srcByte badWave 324 + 4096)) := by
  refine ⟨by decide, ⟨by decide, fun rest hrest s hs => ?_⟩, badMessage_ready, rfl, badMessage_full, badMessage_legal,
    badMessage_preamble, fun i hi => absurd hi (Nat.not_lt_zero i), badMessage_illegal⟩
  · subst hs
    have hlen : rest.length = 4796 := by rw [hrest, List.length_replicate]
    refine ⟨⟨rfl, show (0#8 : BitVec 8).toNat < 16 by decide⟩, rfl, ?_, rfl, by simp, ?_⟩
    · show 0 + 1200 ≤ powerCount (badStream.src ++ rest)
      rw [powerCount, List.length_append, hlen]
      decide
    · obtain ⟨a, b, c, d, e⟩ := badStream_illegal
      have hb : ∀ n, n < 4 → srcByte (badStream.src ++ rest) n = srcByte badStream.src n := fun n hn => srcByte_append_left hn rest
      refine ⟨a, b, ?_, d, fun m h1 h2 => ?_⟩
      · have h2 := hb 2 (by decide)
        have h3 := hb 3 (by decide)
        unfold srcByte at h2 h3
        rw [h2, h3]
        exact c
      · have h0 := hb (2 * m) (by omega)
        have h1' := hb (2 * m + 1) (by omega)
        unfold srcByte at h0 h1'
        rw [h0, h1']
        exact e m h1 h2

/-- The three ways to be dropped: no local maximum, with an illegal word further ahead; another downlink format; a wrong CRC; and a
drop at the last 64-bit position. -/
theorem witness_DemodulatorDropsSilently :
    (∀ s, s = ({ badMessage with dprev := .score 8000000#32 } : State) →
        s.ready ∧ scansCleanly s ∧ ¬preambleAt s ∧ ¬legalPower s.src (s.wpos.toNat + 80)) ∧
      (scansCleanly (transmission 0 otherFormat) ∧ preambleAt (transmission 0 otherFormat) ∧
        legalPoints (transmission 0 otherFormat) 16 ∧
        byteAt (transmission 0 otherFormat).src (transmission 0 otherFormat).wpos.toNat 0 / 8 ≠ 17) ∧
      (scansCleanly (transmission 0 flipped) ∧ preambleAt (transmission 0 flipped) ∧ legalPoints (transmission 0 flipped) 224 ∧
        byteAt (transmission 0 flipped).src (transmission 0 flipped).wpos.toNat 0 / 8 = 17 ∧
        bitcrc ((List.range 14).map fun m =>
          BitVec.ofNat 8 (byteAt (transmission 0 flipped).src (transmission 0 flipped).wpos.toNat m)) ≠ 0#24) ∧
      (∀ q, q = 2 ^ 64 - 5 → scansCleanly (transmission q otherFormat) ∧ preambleAt (transmission q otherFormat) ∧
        legalPoints (transmission q otherFormat) 16 ∧
        byteAt (transmission q otherFormat).src (transmission q otherFormat).wpos.toNat 0 / 8 ≠ 17 ∧
        (transmission q otherFormat).wpos.toNat + 1 = 2 ^ 64) := by
  have h4 : 0 + 4 < 2 ^ 64 := by decide
  refine ⟨fun s hs => ?_, ⟨transmission_clean h4 _, transmission_preamble h4 shapes_otherFormat.1, transmission_points _ _ _, ?_⟩,
    ⟨transmission_clean h4 _, transmission_preamble h4 shapes_flipped.1, transmission_points _ _ _, ?_, ?_⟩, fun q hq => ?_⟩
  · subst hs
    refine ⟨badMessage_ready, ⟨rfl, badMessage_full, badMessage_legal⟩, fun h => ?_, fun h => ?_⟩
    · have hs : (8000000#32).toNat < scoreAt badWave 4 := h.2.1
      rw [badMessage_score] at hs
      exact absurd hs (by decide)
    · obtain ⟨a, b, c, d, _⟩ := badMessage_illegal
      have h : (badWave.getD (2 * 162) 0#8).toNat + 256 * (badWave.getD (2 * 162 + 1) 0#8).toNat ≤ 4095 := h 162 a b
      omega
  · rw [← transmission_sliced h4 shapes_otherFormat.2 (by decide)]
    decide
  · rw [← transmission_sliced h4 shapes_flipped.2 (by decide)]
    decide
  · have hbytes : ((List.range 14).map fun m =>
        BitVec.ofNat 8 (byteAt (transmission 0 flipped).src (transmission 0 flipped).wpos.toNat m)) = flipped := by
      have hm : ∀ m ∈ List.range 14, BitVec.ofNat 8 (byteAt (transmission 0 flipped).src (transmission 0 flipped).wpos.toNat m) =
          flipped.getD m 0#8 := fun m hm => by
        rw [← transmission_sliced h4 shapes_flipped.2 (List.mem_range.mp hm), BitVec.ofNat_toNat, BitVec.setWidth_eq]
      rw [List.map_congr_left hm]
      decide
    rw [hbytes]
    decide +kernel
  · have hq4 : q + 4 < 2 ^ 64 := by omega
    refine ⟨transmission_clean hq4 _, transmission_preamble hq4 shapes_otherFormat.1, transmission_points _ _ _, ?_, ?_⟩
    · rw [← transmission_sliced hq4 shapes_otherFormat.2 (by decide)]
      decide
    · rw [transmission_wpos hq4]
      omega

end Sys2Proof.Tests
end

section
/-! PROOFS. How every command ends: 00_scope.md R7, R9 and 60_exceptions.md R905 to R907. -/

namespace Sys2Proof.Machine

/-! ## How the parts of a command that read the stream end -/

/-- How a part of a command ends: its result meets `P`, or it raises a fault, or it waits and `W` holds. -/
inductive Run.Ends {α : Type} (W : Prop) (P : α → Prop) : Run α → Prop
  | done {a : α} (h : P a) : Run.Ends W P (.done a)
  | fault (c : Cause) (info : BitVec 64) : Run.Ends W P (.fault c info)
  | wait (h : W) : Run.Ends W P .wait

namespace Run.Ends

variable {α : Type} {W V : Prop} {P Q : α → Prop}

theorem mono {r : Run α} (h : r.Ends W P) (hW : W → V) (hP : ∀ a, P a → Q a) : r.Ends V Q := by
  cases h with
  | done h => exact .done (hP _ h)
  | fault c info => exact .fault c info
  | wait h => exact .wait (hW h)

theorem ite {p : Prop} [Decidable p] {r q : Run α} (hr : r.Ends W P) (hq : q.Ends W P) :
    (if p then r else q).Ends W P := by
  split
  · exact hr
  · exact hq

theorem of_done {a : α} (h : (Run.done a).Ends W P) : P a := by
  cases h with
  | done h => exact h

theorem of_wait (h : (Run.wait : Run α).Ends W P) : W := by
  cases h with
  | wait h => exact h

end Run.Ends

theorem need_eq_wait {src : List Byte} {eos : Bool} {k : Nat} (h : need src eos k = .wait) : eos = false := by
  cases eos
  · rfl
  · exact absurd h (need_ne_wait_of_eos src k)

theorem needAll_eq_wait {src : List Byte} {eos : Bool} {ks : List Nat} (h : needAll src eos ks = .wait) : eos = false := by
  cases eos
  · rfl
  · exact absurd h (needAll_ne_wait_of_eos src ks)

/-- A power sample is waited for only before end-of-stream (R557). -/
theorem needRun_eq_wait {s : State} {k : Nat} (h : s.needRun k = .wait) : s.eos = false := by
  unfold State.needRun at h
  cases hk : need s.src s.eos k with
  | wait => exact need_eq_wait hk
  | absent => simp [hk, Need.run] at h
  | bad n u => simp [hk, Need.run] at h
  | value v => simp [hk, Need.run] at h

theorem advanceRun_ends (s : State) :
    (advanceRun s).Ends (s.eos = false) fun t => t.pending = s.pending ∧ t.eos = s.eos := by
  cases hv : s.needRun s.wpos.toNat with
  | done v =>
    rw [advanceRun_of_value hv]
    exact .ite (.fault _ _) (.done ⟨rfl, rfl⟩)
  | fault c info =>
    rw [advanceRun, hv]
    exact .fault c info
  | wait =>
    rw [advanceRun, hv]
    exact .wait (needRun_eq_wait hv)

theorem advanceByRun_ends (n : Nat) (s : State) : (advanceByRun n s).Ends (s.eos = false) fun t => t.pending = s.pending := by
  induction n generalizing s with
  | zero => exact .done rfl
  | succ n ih =>
    have hfirst := advanceRun_ends s
    rw [advanceByRun]
    cases ht : advanceRun s with
    | done t =>
      obtain ⟨hpending, heos⟩ := (ht ▸ hfirst).of_done
      exact (ih t).mono (fun h => heos ▸ h) fun _ h => h.trans hpending
    | fault c info => exact .fault c info
    | wait => exact .wait (ht ▸ hfirst).of_wait

theorem isFullRun_ends (s : State) : (isFullRun s).Ends (s.eos = false) fun _ => True := by
  unfold isFullRun
  cases s.eos
  · exact .ite (.done trivial) (.wait rfl)
  · exact .ite (.done trivial) (.done trivial)

theorem examine_ends (src : List Byte) (eos : Bool) (sp : Config.SkipPrev) (p : Nat) (prev : Prev) :
    (examine src eos sp p prev).Ends (eos = false) fun _ => True := by
  unfold examine
  split
  · exact .fault _ _
  · next hwait => exact .wait (needAll_eq_wait hwait)
  · refine .ite ?_ (.done trivial)
    split
    · exact .fault _ _
    · next hwait => exact .wait (needAll_eq_wait hwait)
    · refine .ite ?_ (.done trivial)
      split
      · exact .fault _ _
      · next hwait => exact .wait (needAll_eq_wait hwait)
      · exact .ite (.done trivial) (.done trivial)

theorem scan_ends (src : List Byte) (eos : Bool) (sp : Config.SkipPrev) (n p : Nat) (prev : Prev) (taken : Nat) :
    (scan src eos sp n p prev taken).Ends (eos = false) fun _ => True := by
  induction n generalizing p prev taken with
  | zero =>
    cases eos
    · exact .wait rfl
    · exact .done trivial
  | succ n ih =>
    have hexam := examine_ends src eos sp p prev
    cases he : examine src eos sp p prev with
    | done e =>
      cases e with
      | found bytes t =>
        rw [scan_found he]
        exact .ite (.fault _ _) (.done trivial)
      | rejected cur t =>
        rw [scan_rejected he]
        exact .ite (.fault _ _) (ih ..)
    | fault c info =>
      rw [scan, he]
      exact .fault c info
    | wait =>
      rw [scan, he]
      exact .wait (he ▸ hexam).of_wait

theorem demRun_ends (s : State) : (demRun s).Ends (s.eos = false) fun r => r.1.pending = s.pending := by
  have hscan := scan_ends s.src s.eos s.cfg.skipPrev (fullPositions s.src s.wpos.toNat) s.wpos.toNat s.dprev s.taken
  unfold demRun
  split
  · exact .done rfl
  · split
    · exact .fault _ _
    · next hwait => exact .wait (hwait ▸ hscan).of_wait
    · exact .done rfl
    · exact .done rfl

/-- The checks of a message operand read no stream. -/
theorem checkMsg_ends (m : MsgOperand) : (checkMsg m).Ends False fun _ => True := by
  cases m with
  | badTag tag => exact .fault _ _
  | ident ts icao category callSign =>
    exact .ite (.fault _ _) (.ite (.fault _ _) (.ite (.done trivial) (.fault _ _)))
  | position ts icao altitudeM parity x y =>
    exact .ite (.fault _ _) (.ite (.fault _ _) (.ite (.fault _ _) (.done trivial)))
  | velocity ts icao speedMps trackRad =>
    exact .ite (.fault _ _) (.ite (.fault _ _) (.ite (.fault _ _) (.done trivial)))

/-! ## How a command ends -/

/-- The states that command `i` can lead to from `s`: an answer with the waiting command as it was, a fault on `s` (R905), or, for
a command that reads the stream before end-of-stream, the wait (R9). -/
inductive CommandEnd (s : State) (i : Instr) : State → Prop
  | answer {t : State} (o : RespOutcome) (v : Value) (h : t.pending = s.pending) : CommandEnd s i (t.respond o v)
  | fault (c : Cause) (info : BitVec 64) : CommandEnd s i (s.raiseFault c info)
  | hold (hi : readsStream i = true) (he : s.eos = false) : CommandEnd s i (s.hold i)

namespace CommandEnd

variable {s : State} {i : Instr}

theorem ite {p : Prop} [Decidable p] {t u : State} (ht : CommandEnd s i t) (hu : CommandEnd s i u) :
    CommandEnd s i (if p then t else u) := by
  split
  · exact ht
  · exact hu

theorem withFrame (value : Frame → Value) : CommandEnd s i (s.withFrame value) := by
  unfold State.withFrame
  split
  · exact .fault _ _
  · exact .answer _ _ rfl

theorem settle {r : Run State} (h : r.Ends (readsStream i = true ∧ s.eos = false) (CommandEnd s i)) :
    CommandEnd s i (s.settle i r) := by
  cases h with
  | done h => exact h
  | fault c info => exact .fault c info
  | wait h => exact .hold h.1 h.2

theorem settle_of_reads {r : Run State} (hi : readsStream i = true) (h : r.Ends (s.eos = false) (CommandEnd s i)) :
    CommandEnd s i (s.settle i r) := settle (h.mono (⟨hi, ·⟩) fun _ h => h)

end CommandEnd

/-! ### The commands whose end takes a case split -/

section Runs

variable {s : State} {i : Instr}

theorem winGetRun_ends (n : Nat) : (winGetRun n s).Ends (s.eos = false) (CommandEnd s i) := by
  unfold winGetRun
  cases hv : s.needRun (s.wpos.toNat + n) with
  | done v => exact .done (.answer _ _ rfl)
  | fault c info => exact .fault c info
  | wait => exact .wait (needRun_eq_wait hv)

theorem respondEmpty_ends {r : Run State} (h : r.Ends (s.eos = false) fun t => t.pending = s.pending) :
    r.respondEmpty.Ends (s.eos = false) (CommandEnd s i) := by
  cases h with
  | done h => exact .done (.answer _ _ h)
  | fault c info => exact .fault c info
  | wait h => exact .wait h

theorem demRespond_ends {r : Run (State × Option Frame)} (h : r.Ends (s.eos = false) fun a => a.1.pending = s.pending) :
    (demRespond r).Ends (s.eos = false) (CommandEnd s i) := by
  cases h with
  | @done a h =>
    obtain ⟨t, _ | f⟩ := a
    · exact .done (.answer _ _ h)
    · exact .done (.answer _ _ h)
  | fault c info => exact .fault c info
  | wait h => exact .wait h

theorem pipeRun_ends {r : Run (State × Option Frame)} (h : r.Ends (s.eos = false) fun a => a.1.pending = s.pending) :
    (pipeRun r).Ends (s.eos = false) (CommandEnd s i) := by
  cases h with
  | @done a h =>
    obtain ⟨t, _ | f⟩ := a
    · exact .done (.answer _ _ h)
    · simp only [pipeRun]
      split
      · exact .done (.answer _ _ h)
      · next m _ =>
        cases hm : checkMsg m.toOperand with
        | done checked => exact .done (.answer _ _ h)
        | fault c info => exact .fault c info
        | wait => exact (hm ▸ checkMsg_ends m.toOperand).of_wait.elim
  | fault c info => exact .fault c info
  | wait h => exact .wait h

end Runs

theorem execWinIsfull_ends (s : State) : ∃ t, execWinIsfull s = guarded s t ∧ CommandEnd s .winIsfull t := by
  refine ⟨_, rfl, .settle_of_reads rfl ?_⟩
  cases hr : isFullRun s with
  | done b => exact .done (.answer _ _ rfl)
  | fault c info => exact .fault c info
  | wait => exact .wait (hr ▸ isFullRun_ends s).of_wait

theorem execTrkUpdate_ends (msg : MsgOperand) (s : State) :
    ∃ t, execTrkUpdate msg s = guarded s t ∧ CommandEnd s (.trkUpdate msg) t := by
  refine ⟨_, rfl, .settle ?_⟩
  cases hm : checkMsg msg with
  | done m => exact .done (.answer _ _ rfl)
  | fault c info => exact .fault c info
  | wait => exact (hm ▸ checkMsg_ends msg).of_wait.elim

theorem execBlkConfig_ends (n : BitVec 8) (s : State) :
    ∃ t, execBlkConfig n s = guarded s t ∧ CommandEnd s (.blkConfig n) t := by
  refine ⟨_, rfl, ?_⟩
  cases cfgRegister s.cfg n.toNat with
  | none => exact .fault _ _
  | some v => exact .answer _ _ rfl

theorem execPePower_ends (s0 s1 s2 s3 s4 s5 s6 s7 : BitVec 16) (s : State) :
    ∃ t, execPePower s0 s1 s2 s3 s4 s5 s6 s7 s = guarded s t ∧ CommandEnd s (.pePower s0 s1 s2 s3 s4 s5 s6 s7) t := by
  refine ⟨_, rfl, ?_⟩
  cases powerOperandBad 0 [s0, s1, s2, s3, s4, s5, s6, s7] with
  | some e => exact .fault _ _
  | none => exact .answer _ _ rfl

theorem execAltDecode_ends (alt12 : BitVec 16) (s : State) :
    ∃ t, execAltDecode alt12 s = guarded s t ∧ CommandEnd s (.altDecode alt12) t := by
  refine ⟨_, rfl, .ite (.fault _ _) ?_⟩
  cases altitudeFt (alt12.setWidth 12) with
  | some feet => exact .answer _ _ rfl
  | none => exact .answer _ _ rfl

theorem execMsgDecode_ends (s : State) : ∃ t, execMsgDecode s = guarded s t ∧ CommandEnd s .msgDecode t := by
  refine ⟨_, rfl, ?_⟩
  split
  · exact .fault _ _
  · split
    · exact .answer _ _ rfl
    · exact .answer _ _ rfl

/-- What every command but `BLK.STATUS` and `BLK.RESET` does: behind the checks of R906 and R907 it ends in one of three ways. -/
theorem exec_ends {i : Instr} (hstatus : i ≠ .blkStatus) (hreset : i ≠ .blkReset) (s : State) :
    ∃ t, exec i s = guarded s t ∧ CommandEnd s i t := by
  cases i with
  | bfExtract value start size => exact ⟨_, rfl, .ite (.fault _ _) (.ite (.fault _ _) (.answer _ _ rfl))⟩
  | bfTestbit value index => exact ⟨_, rfl, .ite (.fault _ _) (.answer _ _ rfl)⟩
  | bsRange seq lo hi => exact ⟨_, rfl, .ite (.fault _ _) (.ite (.fault _ _) (.answer _ _ rfl))⟩
  | crcCompute seq => exact ⟨_, rfl, .answer _ _ rfl⟩
  | crcCheck seq => exact ⟨_, rfl, .answer _ _ rfl⟩
  | crcTable index => exact ⟨_, rfl, .answer _ _ rfl⟩
  | scCondition lo hi => exact ⟨_, rfl, .ite (.fault _ _) (.answer _ _ rfl)⟩
  | pePower s0 s1 s2 s3 s4 s5 s6 s7 => exact execPePower_ends s0 s1 s2 s3 s4 s5 s6 s7 s
  | winGet idx => exact ⟨_, rfl, .ite (.fault _ _) (.settle_of_reads rfl (winGetRun_ends _))⟩
  | winAdvance =>
    exact ⟨_, rfl, .settle_of_reads rfl (respondEmpty_ends ((advanceRun_ends s).mono id fun _ h => h.1))⟩
  | winAdvanceby n => exact ⟨_, rfl, .settle_of_reads rfl (respondEmpty_ends (advanceByRun_ends _ s))⟩
  | winIsfull => exact execWinIsfull_ends s
  | winPosition => exact ⟨_, rfl, .answer _ _ rfl⟩
  | demSize byte0 => exact ⟨_, rfl, .answer _ _ rfl⟩
  | demNext => exact ⟨_, rfl, .settle_of_reads rfl (demRespond_ends (demRun_ends s))⟩
  | frmInject ts frame =>
    exact ⟨_, rfl, .ite (.fault _ _) (.ite (.answer _ _ rfl) (.ite (.answer _ _ rfl) (.answer _ _ rfl)))⟩
  | frmTs => exact ⟨_, rfl, .withFrame _⟩
  | frmDf => exact ⟨_, rfl, .withFrame _⟩
  | frmCa => exact ⟨_, rfl, .withFrame _⟩
  | frmIcao => exact ⟨_, rfl, .withFrame _⟩
  | frmMe => exact ⟨_, rfl, .withFrame _⟩
  | frmTc => exact ⟨_, rfl, .withFrame _⟩
  | frmBytes => exact ⟨_, rfl, .withFrame _⟩
  | msgDecode => exact execMsgDecode_ends s
  | altDecode alt12 => exact execAltDecode_ends alt12 s
  | grayDecode v n => exact ⟨_, rfl, .ite (.fault _ _) (.ite (.fault _ _) (.answer _ _ rfl))⟩
  | csChar code => exact ⟨_, rfl, .ite (.fault _ _) (.answer _ _ rfl)⟩
  | cprMerge x0 y0 x1 y1 recent => exact ⟨_, rfl, .answer _ _ rfl⟩
  | trkUpdate msg => exact execTrkUpdate_ends msg s
  | trkPurge now => exact ⟨_, rfl, .ite (.fault _ _) (.answer _ _ rfl)⟩
  | trkRead icao => exact ⟨_, rfl, .answer _ _ rfl⟩
  | trkLast => exact ⟨_, rfl, .answer _ _ rfl⟩
  | evPop => exact ⟨_, rfl, .answer _ _ rfl⟩
  | pipeStep => exact ⟨_, rfl, .settle_of_reads rfl (pipeRun_ends (demRun_ends s))⟩
  | blkReset => exact absurd rfl hreset
  | blkStatus => exact absurd rfl hstatus
  | blkConfig n => exact execBlkConfig_ends n s

theorem exec_blkStatus (s : State) :
    exec .blkStatus s = unguarded s (s.respond .ok (.status s.faultWord s.faultInfo)) := rfl

theorem exec_blkReset (s : State) : exec .blkReset s = unguarded s (s.resetAll.respond .ok .empty) := rfl

/-- R906: every command is refused in a state with a reserved `CAUSE`. -/
theorem exec_reserved {s : State} (hc : 16 ≤ s.cause.toNat) (i : Instr) : exec i s = .refused .reservedCause := by
  by_cases hstatus : i = .blkStatus
  · rw [hstatus, exec_blkStatus, unguarded_reserved hc]
  by_cases hreset : i = .blkReset
  · rw [hreset, exec_blkReset, unguarded_reserved hc]
  obtain ⟨t, ht, _⟩ := exec_ends hstatus hreset s
  rw [ht, guarded_reserved hc]

/-- R906: every step is refused in a state with a reserved `CAUSE`. -/
theorem step_reserved {s : State} (hc : 16 ≤ s.cause.toNat) : step s = .refused .reservedCause := by
  simp [step, fetch, State.causeReserved, hc]

/-- A state that a command ends in without a wait holds a response and no waiting command. -/
theorem CommandEnd.answered {s t : State} {i : Instr} (h : CommandEnd s i t) (hp : s.pending = none)
    (hw : s.eos = true ∨ readsStream i = false) : (∃ r, t.resp = some r) ∧ t.pending = none := by
  cases h with
  | answer o v h => exact ⟨⟨_, rfl⟩, h.trans hp⟩
  | fault c info => exact ⟨⟨_, rfl⟩, hp⟩
  | hold hi he => simp [hi, he] at hw

end Sys2Proof.Machine

namespace Sys2Proof.Proofs

open Sys2Proof Sys2Proof.Machine

/-- Settles O2: the only stop between the host's word and the command is the reserved `CAUSE`, which the command refuses too. -/
theorem stepRunsDecodedCommand : Obligations.StepRunsDecodedCommand := by
  unfold Obligations.StepRunsDecodedCommand
  intro s command rest i hpending hinbox hdecode
  by_cases hc : 16 ≤ s.cause.toNat
  · rw [step_reserved hc, exec_reserved (s := { s with inbox := rest }) hc]
  · simp [step, fetch, State.causeReserved, hc, fetchNext, hinbox, hpending, fetchIdle, fetchCommand, hdecode]

/-- Settles O7: a refusal of the faulted block is an answer, and the only end of a command that is none is the wait. -/
theorem commandsAnswerOnceTheStreamHasEnded : Obligations.CommandsAnswerOnceTheStreamHasEnded := by
  unfold Obligations.CommandsAnswerOnceTheStreamHasEnded
  intro i s hc hp hw
  by_cases hstatus : i = .blkStatus
  · subst hstatus
    exact ⟨_, _, unguarded_legal hc _, rfl, hp⟩
  by_cases hreset : i = .blkReset
  · subst hreset
    exact ⟨_, _, unguarded_legal hc _, rfl, rfl⟩
  obtain ⟨t, ht, hend⟩ := exec_ends hstatus hreset s
  cases hf : s.faulted with
  | true => exact ⟨_, _, ht.trans (guarded_faulted hf hc t), rfl, hp⟩
  | false =>
    obtain ⟨⟨r, hr⟩, hpending⟩ := hend.answered hp hw
    exact ⟨t, r, ht.trans (guarded_ready ⟨hf, hc⟩ t), hr, hpending⟩

end Sys2Proof.Proofs
end

section
/-! PROOFS. Rounding to binary64 (00_scope.md R33): what a nearest integer mantissa gives once it is packed, and that the model's
integer arithmetic finds the exponent and the nearest mantissa of a fraction. -/

namespace Sys2Proof.Machine

/-! ## Nearest integers -/

/-- `m` is the integer nearest to `y`, the even one of two. -/
structure RoundsTo (m : Nat) (y : ℝ) : Prop where
  near : |(m : ℝ) - y| ≤ 1 / 2
  even : |(m : ℝ) - y| = 1 / 2 → m % 2 = 0

namespace RoundsTo

variable {m : Nat} {y : ℝ}

/-- Another integer is farther away, or as far and then `m` is even. -/
theorem lt_or_even (h : RoundsTo m y) {z : ℤ} (hz : z ≠ m) :
    |(m : ℝ) - y| < |(z : ℝ) - y| ∨ (|(m : ℝ) - y| = |(z : ℝ) - y| ∧ m % 2 = 0) := by
  have hone : (1 : ℝ) ≤ |(z : ℝ) - m| := by exact_mod_cast Int.one_le_abs (sub_ne_zero.mpr hz)
  have htri : |(z : ℝ) - m| ≤ |(z : ℝ) - y| + |(m : ℝ) - y| := by
    rw [abs_sub_comm (m : ℝ) y]
    exact abs_sub_le _ _ _
  have hnear := h.near
  rcases lt_or_eq_of_le (show |(m : ℝ) - y| ≤ |(z : ℝ) - y| by linarith) with hlt | heq
  · exact .inl hlt
  · exact .inr ⟨heq, h.even (by linarith)⟩

theorem abs_sub_le_int (h : RoundsTo m y) (z : ℤ) : |(m : ℝ) - y| ≤ |(z : ℝ) - y| := by
  by_cases hz : z = m
  · rw [hz, Int.cast_natCast]
  · exact (h.lt_or_even hz).elim le_of_lt fun heq => heq.1.le

theorem lt_of_lt_sub_half (h : RoundsTo m y) {k : Nat} (hy : y < k - 1 / 2) : m < k := by
  have hnear := (abs_le.mp h.near).2
  exact_mod_cast (by linarith : (m : ℝ) < k)

theorem le_of_lt_cast (h : RoundsTo m y) {k : Nat} (hy : y < k) : m ≤ k := by
  have hnear := (abs_le.mp h.near).2
  exact Nat.lt_succ_iff.mp (by exact_mod_cast (by linarith : (m : ℝ) < k + 1))

theorem le_of_cast_le (h : RoundsTo m y) {k : Nat} (hy : k ≤ y) : k ≤ m := by
  have hnear := (abs_le.mp h.near).1
  exact Nat.lt_succ_iff.mp (by exact_mod_cast (by linarith : (k : ℝ) < m + 1))

end RoundsTo

theorem roundNat_roundsTo (n : Nat) {d : Nat} (hd : 0 < d) : RoundsTo (roundNat n d) ((n : ℝ) / d) := by
  have hd' : (0 : ℝ) < d := by exact_mod_cast hd
  have hsplit : (n : ℝ) / d = (n / d : ℕ) + ((n % d : ℕ) : ℝ) / d := by
    rw [eq_comm, add_div_eq_mul_add_div _ _ hd'.ne']
    congr 1
    exact_mod_cast Nat.div_add_mod' n d
  have hlow (h : 2 * (n % d) < d) : ((n % d : ℕ) : ℝ) / d < 1 / 2 := by
    rw [div_lt_div_iff₀ hd' two_pos]
    exact_mod_cast (by omega : n % d * 2 < 1 * d)
  have hhigh (h : d < 2 * (n % d)) : 1 / 2 < ((n % d : ℕ) : ℝ) / d := by
    rw [div_lt_div_iff₀ two_pos hd']
    exact_mod_cast (by omega : 1 * d < n % d * 2)
  have hmid (h : d = 2 * (n % d)) : ((n % d : ℕ) : ℝ) / d = 1 / 2 := by
    rw [div_eq_div_iff hd'.ne' two_ne_zero]
    exact_mod_cast (by omega : n % d * 2 = 1 * d)
  have hnonneg : (0 : ℝ) ≤ ((n % d : ℕ) : ℝ) / d := by positivity
  have hone : ((n % d : ℕ) : ℝ) / d < 1 := (div_lt_one hd').mpr (by exact_mod_cast Nat.mod_lt n hd)
  rw [hsplit]
  generalize ((n % d : ℕ) : ℝ) / d = t at *
  unfold roundNat
  dsimp only
  have hdown : |((n / d : ℕ) : ℝ) - ((n / d : ℕ) + t)| = t := by
    rw [sub_add_cancel_left, abs_neg, abs_of_nonneg hnonneg]
  have hup : |((n / d + 1 : ℕ) : ℝ) - ((n / d : ℕ) + t)| = 1 - t := by
    rw [Nat.cast_succ, add_sub_add_left_eq_sub, abs_of_pos (by linarith)]
  split_ifs with h1 h2 h3
  · have := hlow h1
    exact ⟨by linarith, fun h => by linarith⟩
  · have := hhigh h2
    exact ⟨by linarith, fun h => by linarith⟩
  · have := hmid (by omega)
    exact ⟨by linarith, fun _ => h3⟩
  · have := hmid (by omega)
    exact ⟨by linarith, fun _ => by omega⟩

/-! ## The exponent of a fraction -/

theorem pow2Le_iff (e : ℤ) (n : Nat) {d : Nat} (hd : 0 < d) : pow2Le e n d = true ↔ (2 : ℝ) ^ e ≤ (n : ℝ) / d := by
  have hd' : (0 : ℝ) < d := by exact_mod_cast hd
  rw [le_div_iff₀ hd']
  unfold pow2Le
  split
  · next h =>
    obtain ⟨k, hk⟩ := Int.eq_ofNat_of_zero_le (show 0 ≤ -e by omega)
    rw [decide_eq_true_eq, hk, show e = -(k : ℤ) by omega, Int.toNat_natCast, zpow_neg, zpow_natCast,
      inv_mul_le_iff₀ (by positivity), mul_comm]
    exact_mod_cast Iff.rfl
  · next h =>
    obtain ⟨k, rfl⟩ := Int.eq_ofNat_of_zero_le (show 0 ≤ e by omega)
    rw [decide_eq_true_eq, zpow_natCast, mul_comm, Int.toNat_natCast]
    exact_mod_cast Iff.rfl

/-- The exponent brackets the fraction. -/
theorem ratioExp_spec {n d : Nat} (hn : 0 < n) (hd : 0 < d) :
    (2 : ℝ) ^ ratioExp n d ≤ (n : ℝ) / d ∧ (n : ℝ) / d < 2 ^ (ratioExp n d + 1) := by
  have hd' : (0 : ℝ) < d := by exact_mod_cast hd
  have hn1 : (2 : ℝ) ^ n.log2 ≤ n := by exact_mod_cast Nat.log2_self_le hn.ne'
  have hn2 : (n : ℝ) < 2 ^ (n.log2 + 1) := by exact_mod_cast Nat.lt_log2_self
  have hd1 : (2 : ℝ) ^ d.log2 ≤ d := by exact_mod_cast Nat.log2_self_le hd.ne'
  have hd2 : (d : ℝ) < 2 ^ (d.log2 + 1) := by exact_mod_cast Nat.lt_log2_self
  have hlow : (2 : ℝ) ^ ((n.log2 : ℤ) - d.log2 - 1) ≤ (n : ℝ) / d := by
    rw [sub_sub, zpow_sub₀ two_ne_zero]
    exact_mod_cast div_le_div₀ (Nat.cast_nonneg n) hn1 hd' hd2.le
  have hhigh : (n : ℝ) / d < 2 ^ ((n.log2 : ℤ) - d.log2 + 1) := by
    rw [sub_add_eq_add_sub, zpow_sub₀ two_ne_zero]
    exact_mod_cast div_lt_div₀ hn2 hd1 (by positivity) (by positivity)
  unfold ratioExp
  dsimp only
  split
  · next h => exact ⟨(pow2Le_iff _ n hd).mp h, hhigh⟩
  · next h =>
    rw [pow2Le_iff _ n hd, not_le] at h
    exact ⟨hlow, by rwa [sub_add_cancel]⟩

/-- A fraction is rounded at the exponent of R33's normal and subnormal numbers: its mantissa is the nearest one. -/
theorem f64Ratio_eq_packF64 {n d : Nat} (hn : 0 < n) (hd : 0 < d) :
    ∃ m, f64Ratio n d = packF64 (max (ratioExp n d) (-1022)) m ∧
      RoundsTo m ((n : ℝ) / d * 2 ^ (52 - max (ratioExp n d) (-1022))) := by
  refine ⟨_, by rw [f64Ratio, if_neg hn.ne'], ?_⟩
  generalize 52 - max (ratioExp n d) (-1022) = shift
  split
  · next h =>
    obtain ⟨k, hk⟩ := Int.eq_ofNat_of_zero_le (show 0 ≤ -shift by omega)
    have hround := roundNat_roundsTo n (show 0 < d * 2 ^ k by positivity)
    rw [show shift = -(k : ℤ) by omega, neg_neg, Int.toNat_natCast, zpow_neg, zpow_natCast, ← div_eq_mul_inv, div_div]
    exact_mod_cast hround
  · next h =>
    obtain ⟨k, rfl⟩ := Int.eq_ofNat_of_zero_le (show 0 ≤ shift by omega)
    have hround := roundNat_roundsTo (n * 2 ^ k) hd
    rw [Int.toNat_natCast, zpow_natCast, div_mul_eq_mul_div]
    exact_mod_cast hround

/-! ## Values of binary64 patterns -/

/-- Every pattern stands for a 53-bit integer times a power of two, 2^(−1074) at the least. -/
theorem f64Value_eq_int_mul (c : F64) : ∃ z k : ℤ, z < 2 ^ 53 ∧ -1074 ≤ k ∧ f64Value c = z * 2 ^ k := by
  have hm : c.toNat % 2 ^ 52 < 2 ^ 52 := Nat.mod_lt _ (by decide)
  obtain ⟨s, hs, hsign⟩ : ∃ s : ℤ, (s = 1 ∨ s = -1) ∧ (if c.msb then -1 else 1 : ℚ) = s := by
    cases c.msb
    · exact ⟨1, .inl rfl, by simp⟩
    · exact ⟨-1, .inr rfl, by simp⟩
  unfold f64Value
  dsimp only
  rw [hsign]
  generalize c.toNat % 2 ^ 52 = m at *
  generalize c.toNat / 2 ^ 52 % 2 ^ 11 = field
  split
  · refine ⟨s * m, -1074, by rcases hs with rfl | rfl <;> omega, le_rfl, ?_⟩
    rw [Int.cast_mul, Int.cast_natCast, mul_assoc]
  · refine ⟨s * (2 ^ 52 + m : ℕ), field - 1075, by rcases hs with rfl | rfl <;> omega, by omega, ?_⟩
    rw [Int.cast_mul, Int.cast_natCast, mul_assoc]

/-- Seen from an exponent `e`, a pattern's value is a multiple of the unit `2^(e − 52)`, or it lies below `2^e`. -/
theorem f64Value_grid (c : F64) {e : ℤ} (he : -1022 ≤ e) :
    (∃ z : ℤ, f64Value c = z * 2 ^ (e - 52)) ∨ (-1022 < e ∧ f64Value c < 2 ^ e) := by
  obtain ⟨z, k, hz, hk, hval⟩ := f64Value_eq_int_mul c
  by_cases hek : e - 52 ≤ k
  · obtain ⟨j, hj⟩ := Int.eq_ofNat_of_zero_le (show 0 ≤ k - (e - 52) by omega)
    refine .inl ⟨z * 2 ^ j, ?_⟩
    rw [hval, show k = (j : ℤ) + (e - 52) by omega, zpow_add₀ two_ne_zero, zpow_natCast]
    push_cast
    ring
  · refine .inr ⟨by omega, ?_⟩
    calc f64Value c = z * 2 ^ k := hval
      _ < 2 ^ 53 * 2 ^ k := by
        have hz' : (z : ℚ) < 2 ^ 53 := by exact_mod_cast hz
        gcongr
      _ = 2 ^ (53 + k) := by rw [zpow_add₀ two_ne_zero]; norm_cast
      _ ≤ 2 ^ e := zpow_le_zpow_right₀ one_le_two (by omega)

/-! ## Packing a mantissa -/

section Pack

variable {e : ℤ} {m : Nat}

theorem packF64_toNat (h : (e + 1022).toNat * 2 ^ 52 + m < 0x7FF * 2 ^ 52) :
    (packF64 e m).toNat = (e + 1022).toNat * 2 ^ 52 + m := by
  rw [packF64, min_eq_left h.le, BitVec.toNat_ofNat]
  omega

theorem packF64_msb (h : (e + 1022).toNat * 2 ^ 52 + m < 0x7FF * 2 ^ 52) : (packF64 e m).msb = false := by
  rw [BitVec.msb_eq_false_iff_two_mul_lt, packF64_toNat h]
  omega

theorem packF64_finite (h : (e + 1022).toNat * 2 ^ 52 + m < 0x7FF * 2 ^ 52) : f64Finite (packF64 e m) := by
  rw [f64Finite, packF64_toNat h]
  omega

theorem packF64_even (h : (e + 1022).toNat * 2 ^ 52 + m < 0x7FF * 2 ^ 52) (hm : m % 2 = 0) :
    (packF64 e m).getLsbD 0 = false := by
  rw [BitVec.getLsbD, packF64_toNat h, Nat.testBit_zero, decide_eq_false_iff_not]
  omega

theorem f64Value_of_fields {c : F64} {field mant : Nat} (hsign : c.msb = false) (hfield : c.toNat / 2 ^ 52 % 2 ^ 11 = field)
    (hmant : c.toNat % 2 ^ 52 = mant) :
    f64Value c =
      if field = 0 then (mant : ℚ) * 2 ^ (-1074 : ℤ) else ((2 ^ 52 + mant : ℕ) : ℚ) * 2 ^ ((field : ℤ) - 1075) := by
  rw [f64Value, hsign, hfield, hmant, if_neg Bool.false_ne_true, one_mul]

/-- A packed mantissa has the value it was packed for, also when it fills a subnormal number or carries into the exponent. -/
theorem packF64_value (he : -1022 ≤ e) (hlow : e = -1022 ∨ 2 ^ 52 ≤ m) (hhigh : m ≤ 2 ^ 53)
    (h : (e + 1022).toNat * 2 ^ 52 + m < 0x7FF * 2 ^ 52) : f64Value (packF64 e m) = m * 2 ^ (e - 52) := by
  have hsign := packF64_msb h
  have hbits := packF64_toNat h
  rcases lt_or_ge m (2 ^ 52) with hm | hm
  · have he' : e = -1022 := by omega
    rw [f64Value_of_fields hsign (show _ = 0 by omega) (show _ = m by omega), if_pos rfl, he']
    rfl
  rcases hhigh.lt_or_eq with hm' | rfl
  · rw [f64Value_of_fields hsign (show _ = (e + 1022).toNat + 1 by omega) (show _ = m - 2 ^ 52 by omega),
      if_neg (Nat.succ_ne_zero _), Nat.add_sub_cancel' hm, show (((e + 1022).toNat + 1 : ℕ) : ℤ) - 1075 = e - 52 by omega]
  · rw [f64Value_of_fields hsign (show _ = (e + 1022).toNat + 2 by omega) (show _ = 0 by omega), if_neg (Nat.succ_ne_zero _),
      show (((e + 1022).toNat + 2 : ℕ) : ℤ) - 1075 = e - 52 + 1 by omega, zpow_add_one₀ two_ne_zero]
    push_cast
    ring

/-- Where numbers round past the largest finite one, in its units. -/
theorem overflow_bound_eq : (2 : ℝ) ^ (1024 : ℤ) - 2 ^ (970 : ℤ) = (2 ^ 53 - 1 / 2) * 2 ^ (971 : ℤ) := by
  rw [show (1024 : ℤ) = 53 + 971 by rfl, show (970 : ℤ) = -1 + 971 by rfl, zpow_add₀ two_ne_zero, zpow_add₀ two_ne_zero,
    ← sub_mul, zpow_neg_one, one_div]
  rfl

/-- Below that number the exponent field stays below the one of the infinity. -/
theorem packF64_bits_lt {x : ℝ} (hlow : e = -1022 ∨ (2 : ℝ) ^ e ≤ x) (hmax : x < 2 ^ (1024 : ℤ) - 2 ^ (970 : ℤ))
    (hm : RoundsTo m (x * 2 ^ (52 - e))) (hm53 : m ≤ 2 ^ 53) : (e + 1022).toNat * 2 ^ 52 + m < 0x7FF * 2 ^ 52 := by
  rcases le_or_gt e 1022 with he | he
  · omega
  have hx : (2 : ℝ) ^ e ≤ x := hlow.resolve_left (by omega)
  have he' : e < 1024 := (zpow_lt_zpow_iff_right₀ (one_lt_two (α := ℝ))).mp <|
    (hx.trans_lt hmax).trans (sub_lt_self _ (zpow_pos two_pos _))
  obtain rfl : e = 1023 := by omega
  have hy : x * 2 ^ (52 - 1023 : ℤ) < (2 ^ 53 : ℕ) - 1 / 2 := by
    rw [show (52 - 1023 : ℤ) = -971 by rfl, zpow_neg, ← div_eq_mul_inv, div_lt_iff₀ (zpow_pos two_pos _)]
    exact_mod_cast overflow_bound_eq ▸ hmax
  have := hm.lt_of_lt_sub_half hy
  omega

/-- Distances from `x` in units of `2^(e − 52)`. -/
theorem abs_mul_unit_sub (e : ℤ) (x y : ℝ) :
    |y * 2 ^ (e - 52) - x| = |y - x * 2 ^ (52 - e)| * 2 ^ (e - 52) := by
  have hinv : (2 : ℝ) ^ (52 - e) * 2 ^ (e - 52) = 1 := by
    rw [← zpow_add₀ two_ne_zero, sub_add_sub_cancel', sub_self, zpow_zero]
  have hunit : (0 : ℝ) < 2 ^ (e - 52) := zpow_pos two_pos _
  rw [← abs_of_pos hunit, ← abs_mul, abs_of_pos hunit, sub_mul, mul_assoc, hinv, mul_one]

/-- The mantissa of a number with exponent `e` has 53 bits, or rounds up to 2^53. -/
theorem RoundsTo.mantissa_bounds {x : ℝ} (hm : RoundsTo m (x * 2 ^ (52 - e))) (hlow : e = -1022 ∨ (2 : ℝ) ^ e ≤ x)
    (hhigh : x < 2 ^ (e + 1)) : (e = -1022 ∨ 2 ^ 52 ≤ m) ∧ m ≤ 2 ^ 53 := by
  have hscale : (0 : ℝ) < 2 ^ (52 - e) := zpow_pos two_pos _
  refine ⟨hlow.imp_right fun hx => hm.le_of_cast_le ?_, hm.le_of_lt_cast ?_⟩
  · have := mul_le_mul_of_nonneg_right hx hscale.le
    rw [← zpow_add₀ two_ne_zero, add_sub_cancel] at this
    exact_mod_cast this
  · have := mul_lt_mul_of_pos_right hhigh hscale
    rw [← zpow_add₀ two_ne_zero, show e + 1 + (52 - e) = 53 by ring] at this
    exact_mod_cast this

/-- The pattern of a nearest mantissa is the nearest pattern: `e` is the exponent of `x`, or the one of the subnormal numbers. -/
theorem isF64Of_packF64 {x : ℝ} (he : -1022 ≤ e) (hlow : e = -1022 ∨ (2 : ℝ) ^ e ≤ x) (hhigh : x < 2 ^ (e + 1))
    (hmax : x < 2 ^ (1024 : ℤ) - 2 ^ (970 : ℤ)) (hm : RoundsTo m (x * 2 ^ (52 - e))) :
    (packF64 e m).msb = false ∧ isF64Of (packF64 e m) x := by
  obtain ⟨hm52, hm53⟩ := hm.mantissa_bounds hlow hhigh
  have hbits := packF64_bits_lt hlow hmax hm hm53
  have hval := packF64_value he hm52 hm53 hbits
  have hunit : (0 : ℝ) < 2 ^ (e - 52) := zpow_pos two_pos _
  have hdist : |(f64Value (packF64 e m) : ℝ) - x| = |(m : ℝ) - x * 2 ^ (52 - e)| * 2 ^ (e - 52) := by
    rw [← abs_mul_unit_sub, hval]
    push_cast
    rfl
  refine ⟨packF64_msb hbits, packF64_finite hbits, fun c _ hne => ?_⟩
  rw [hdist]
  rcases f64Value_grid c he with ⟨z, hz⟩ | ⟨hnormal, hlt⟩
  · have hzm : z ≠ m := by
      rintro rfl
      exact hne (hz.trans hval.symm)
    rw [hz]
    push_cast
    rw [abs_mul_unit_sub, mul_lt_mul_iff_left₀ hunit, mul_left_inj' hunit.ne']
    exact (hm.lt_or_even hzm).imp_right fun ⟨h, heven⟩ => ⟨h, packF64_even hbits heven⟩
  · have hx : (2 : ℝ) ^ e ≤ x := hlow.resolve_left (by omega)
    have hlt' : (f64Value c : ℝ) < 2 ^ e := by simpa using (Rat.cast_lt (K := ℝ)).mpr hlt
    have hedge : ((2 ^ 52 : ℤ) : ℝ) * 2 ^ (e - 52) = 2 ^ e := by
      rw [Int.cast_pow, Int.cast_ofNat, ← zpow_natCast, ← zpow_add₀ two_ne_zero,
        show ((52 : ℕ) : ℤ) + (e - 52) = e by omega]
    left
    calc |(m : ℝ) - x * 2 ^ (52 - e)| * 2 ^ (e - 52)
        ≤ |((2 ^ 52 : ℤ) : ℝ) - x * 2 ^ (52 - e)| * 2 ^ (e - 52) :=
          mul_le_mul_of_nonneg_right (hm.abs_sub_le_int _) hunit.le
      _ = x - 2 ^ e := by rw [← abs_mul_unit_sub, hedge, abs_sub_comm, abs_of_nonneg (sub_nonneg.mpr hx)]
      _ < x - f64Value c := sub_lt_sub_left hlt' x
      _ = |(f64Value c : ℝ) - x| := by rw [abs_sub_comm, abs_of_pos (by linarith)]

end Pack

theorem isF64Of_zero : isF64Of 0#64 0 := by
  have hzero : f64Value 0#64 = 0 := by simp [f64Value_of_fields (c := 0#64) rfl rfl rfl]
  refine ⟨by unfold f64Finite; decide, fun c _ hne => .inl ?_⟩
  simpa [hzero] using hne

theorem div_lt_sub_of_lt_mul {n d a b : Nat} (hd : 0 < d) (hba : b ≤ a) (h : n < d * (a - b)) : (n : ℝ) / d < a - b := by
  rw [div_lt_iff₀' (by exact_mod_cast hd), ← Nat.cast_sub hba]
  exact_mod_cast h

/-- The fraction rounding is the correct rounding below the number that rounds past the largest finite one. -/
theorem isF64Of_f64Ratio {n d : Nat} (hd : 0 < d) (hmax : (n : ℝ) / d < 2 ^ (1024 : ℤ) - 2 ^ (970 : ℤ)) :
    (f64Ratio n d).msb = false ∧ isF64Of (f64Ratio n d) ((n : ℝ) / d) := by
  rcases Nat.eq_zero_or_pos n with rfl | hn
  · rw [f64Ratio, if_pos rfl, Nat.cast_zero, zero_div]
    exact ⟨rfl, isF64Of_zero⟩
  · obtain ⟨m, heq, hm⟩ := f64Ratio_eq_packF64 hn hd
    obtain ⟨hlow, hhigh⟩ := ratioExp_spec hn hd
    rw [heq]
    refine isF64Of_packF64 (le_max_right _ _) ?_ ?_ hmax hm
    · rcases le_total (ratioExp n d) (-1022) with h | h
      · exact .inl (max_eq_right h)
      · exact .inr (by rwa [max_eq_left h])
    · exact hhigh.trans_le (zpow_le_zpow_right₀ one_le_two (by omega))

end Sys2Proof.Machine

namespace Sys2Proof.Proofs

open Sys2Proof Sys2Proof.Machine

/-- Settles O43: the mantissa at the fraction's exponent, or at the one of the subnormal numbers, is the nearest integer, and its
pattern the nearest pattern. -/
theorem fractionsRoundToNearestEven : Obligations.FractionsRoundToNearestEven := by
  unfold Obligations.FractionsRoundToNearestEven
  intro n d hd hmax
  have hlt := div_lt_sub_of_lt_mul (h := hmax) hd (by gcongr <;> decide)
  simp only [Nat.cast_pow, Nat.cast_ofNat] at hlt
  exact isF64Of_f64Ratio hd (by rwa [zpow_ofNat, zpow_ofNat])

end Sys2Proof.Proofs
end

section
/-! PROOFS. Which command changes what: 10_state.md R100, R140, R150, 43_window.md R558, 44_demodulator.md R614, 60_exceptions.md
R905. Each of the three operations that write pipeline state is given its list of fields once; no command writes more. -/

namespace Sys2Proof.Machine

/-! ## What the shared operations write -/

/-- `t` is `s` with another left edge, `D.prev` and mark of the samples computed (R553, R558). -/
inductive WindowWrite (s : State) : State → Prop
  | intro (wpos : BitVec 64) (dprev : Prev) (taken : Nat) :
    WindowWrite s { s with wpos := wpos, dprev := dprev, taken := taken }

/-- `t` is `s` with another left edge, `D.prev`, `D.state`, `F` and mark of the samples computed (R610, R611, R614). -/
inductive DemodWrite (s : State) : State → Prop
  | intro (wpos : BitVec 64) (dprev : Prev) (dstate : DState) (frame : Option Frame) (taken : Nat) :
    DemodWrite s { s with wpos := wpos, dprev := dprev, dstate := dstate, frame := frame, taken := taken }

theorem WindowWrite.refl (s : State) : WindowWrite s s := .intro s.wpos s.dprev s.taken

theorem WindowWrite.trans {s t u : State} (hst : WindowWrite s t) (htu : WindowWrite t u) : WindowWrite s u := by
  cases hst
  cases htu
  exact .intro ..

theorem DemodWrite.refl (s : State) : DemodWrite s s := .intro s.wpos s.dprev s.dstate s.frame s.taken

theorem advanceRun_writes (s : State) : (advanceRun s).Ends True (WindowWrite s) := by
  cases h : advanceRun s with
  | done t =>
    rw [(advanceRun_done h).1]
    exact .done (.intro ..)
  | fault c info => exact .fault c info
  | wait => exact .wait trivial

theorem advanceByRun_writes (n : Nat) (s : State) : (advanceByRun n s).Ends True (WindowWrite s) := by
  induction n generalizing s with
  | zero => exact .done (.refl s)
  | succ n ih =>
    have hfirst := advanceRun_writes s
    rw [advanceByRun]
    cases ht : advanceRun s with
    | done t => exact (ih t).mono id fun _ h => (ht ▸ hfirst).of_done.trans h
    | fault c info => exact .fault c info
    | wait => exact .wait trivial

theorem demRun_writes (s : State) : (demRun s).Ends True fun r => DemodWrite s r.1 := by
  unfold demRun
  split
  · exact .done (.refl s)
  · split
    · exact .fault _ _
    · exact .wait trivial
    · exact .done (.intro ..)
    · exact .done (.intro ..)

/-- A checked message writes the table, the tracker's last timestamp and the event output (R850, R880). -/
theorem trackMessage_writes (s : State) (m : Message) :
    (trackMessage s m).1 =
      { s with table := (trackMessage s m).1.table, lastNs := some m.ts, ev := (trackMessage s m).1.ev } := rfl

/-! ## The frame of a command -/

/-- Every piece of state that `t` changes is one that command `i` writes, in the lists of Safety.lean; the fault registers change
by a fault only. Every field is proved by default for a `t` that agrees with `s` there. -/
structure Keeps (s : State) (i : Instr) (t : State) : Prop where
  faultRegisters : (∀ c info, t.resp ≠ some (.fault c info)) →
    t.faulted = s.faulted ∧ t.cause = s.cause ∧ t.faultInfo = s.faultInfo := by exact fun _ => ⟨rfl, rfl, rfl⟩
  window : movesWindow i = false → t.wpos = s.wpos ∧ t.dprev = s.dprev := by exact fun _ => ⟨rfl, rfl⟩
  dstate : writesDState i = false → t.dstate = s.dstate := by exact fun _ => rfl
  frame : writesFrame i = false → t.frame = s.frame := by exact fun _ => rfl
  table : writesTable i = false → t.table = s.table := by exact fun _ => rfl
  lastNs : writesTable i = false ∨ (∃ now, i = .trkPurge now) → t.lastNs = s.lastNs := by exact fun _ => rfl
  ev : writesTable i = false → i ≠ .evPop → t.ev = s.ev := by exact fun _ _ => rfl
  samples : readsStream i = false → t.taken = s.taken ∧ t.pending = s.pending := by exact fun _ => ⟨rfl, rfl⟩
  stream : t.src = s.src ∧ t.eos = s.eos := by exact ⟨rfl, rfl⟩
  cfg : t.cfg = s.cfg := by rfl
  inbox : t.inbox = s.inbox := by rfl

namespace Keeps

variable {s t u : State} {i : Instr} {o : RespOutcome} {v : Value}

theorem respond : Keeps s i (s.respond o v) where

theorem respondRefused : Keeps s i s.respondRefused where

theorem fault {c : Cause} {info : BitVec 64} : Keeps s i (s.raiseFault c info) where
  faultRegisters h := absurd rfl (h c info)

theorem hold (hi : readsStream i = true) : Keeps s i (s.hold i) where
  samples h := absurd (hi.symm.trans h) nofun

theorem ite {p : Prop} [Decidable p] (ht : Keeps s i t) (hu : Keeps s i u) : Keeps s i (if p then t else u) := by
  split
  · exact ht
  · exact hu

theorem withFrame {value : Frame → Value} : Keeps s i (s.withFrame value) := by
  unfold State.withFrame
  split
  · exact fault
  · exact respond

theorem settle {r : Run State} (h : r.Ends (readsStream i = true) (Keeps s i)) : Keeps s i (s.settle i r) := by
  cases h with
  | done h => exact h
  | fault c info => exact fault
  | wait h => exact hold h

theorem settle_of_reads {r : Run State} (hi : readsStream i = true) (h : r.Ends True (Keeps s i)) :
    Keeps s i (s.settle i r) := settle (h.mono (fun _ => hi) fun _ h => h)

/-- The checks of R906 and R907 in front of a command write nothing. -/
theorem of_guarded (h : guarded s t = .next u) (ht : Keeps s i t) : Keeps s i u := by
  obtain ⟨_, _, rfl⟩ | ⟨_, rfl⟩ := guarded_cases h
  · exact respondRefused
  · exact ht

end Keeps

/-! ### The commands that write pipeline state -/

section Runs

variable {s : State} {i : Instr}

theorem winGetRun_keeps (n : Nat) (idx : BitVec 16) : (winGetRun n s).Ends True (Keeps s (.winGet idx)) := by
  unfold winGetRun
  split
  · exact .done { samples := nofun }
  · exact .fault _ _
  · exact .wait trivial

theorem respondEmpty_keeps (hmoves : movesWindow i = true) (hreads : readsStream i = true) {r : Run State}
    (h : r.Ends True (WindowWrite s)) : r.respondEmpty.Ends True (Keeps s i) := by
  cases h with
  | done h =>
    cases h
    exact .done { window := by simp [hmoves], samples := by simp [hreads] }
  | fault c info => exact .fault c info
  | wait h => exact .wait h

theorem demRespond_keeps {r : Run (State × Option Frame)} (h : r.Ends True fun a => DemodWrite s a.1) :
    (demRespond r).Ends True (Keeps s .demNext) := by
  cases h with
  | @done a h =>
    obtain ⟨t, _ | f⟩ := a
    · cases h
      exact .done { window := nofun, dstate := nofun, frame := nofun, samples := nofun }
    · cases h
      exact .done { window := nofun, dstate := nofun, frame := nofun, samples := nofun }
  | fault c info => exact .fault c info
  | wait h => exact .wait h

/-- `PIPE.STEP` may write all that is written by the demodulator and the tracker (R890). -/
theorem pipeStep_keeps {t : State} (h : DemodWrite s t) (table : List (Icao × AircraftState)) (lastNs : Option Ts)
    (ev : List Event) (o : RespOutcome) (v : Value) :
    Keeps s .pipeStep ({ t with table := table, lastNs := lastNs, ev := ev }.respond o v) := by
  cases h
  exact { window := nofun, dstate := nofun, frame := nofun, table := nofun, lastNs := nofun, ev := nofun, samples := nofun }

theorem pipeRun_keeps {r : Run (State × Option Frame)} (h : r.Ends True fun a => DemodWrite s a.1) :
    (pipeRun r).Ends True (Keeps s .pipeStep) := by
  cases h with
  | @done a h =>
    obtain ⟨t, _ | f⟩ := a
    · exact .done (pipeStep_keeps h t.table t.lastNs t.ev _ _)
    · simp only [pipeRun]
      split
      · exact .done (pipeStep_keeps h t.table t.lastNs t.ev _ _)
      · split
        · exact .fault _ _
        · exact .wait trivial
        · rw [trackMessage_writes]
          exact .done (pipeStep_keeps h ..)
  | fault c info => exact .fault c info
  | wait h => exact .wait h

theorem execTrkUpdate_keeps {msg : MsgOperand} {t : State} (h : execTrkUpdate msg s = .next t) :
    Keeps s (.trkUpdate msg) t := by
  refine .of_guarded h (.settle ?_)
  cases hm : checkMsg msg with
  | done m => exact .done { table := nofun, lastNs := nofun, ev := nofun }
  | fault c info => exact .fault c info
  | wait => exact (hm ▸ checkMsg_ends msg).of_wait.elim

theorem execWinIsfull_keeps {t : State} (h : execWinIsfull s = .next t) : Keeps s .winIsfull t := by
  refine .of_guarded h (.settle_of_reads rfl ?_)
  split
  · exact .done .respond
  · exact .fault _ _
  · exact .wait trivial

theorem execPePower_keeps {s0 s1 s2 s3 s4 s5 s6 s7 : BitVec 16} {t : State}
    (h : execPePower s0 s1 s2 s3 s4 s5 s6 s7 s = .next t) : Keeps s i t := by
  refine .of_guarded h ?_
  split
  · exact .fault
  · exact .respond

theorem execMsgDecode_keeps {t : State} (h : execMsgDecode s = .next t) : Keeps s i t := by
  refine .of_guarded h ?_
  split
  · exact .fault
  · split
    · exact .respond
    · exact .respond

theorem execAltDecode_keeps {alt12 : BitVec 16} {t : State} (h : execAltDecode alt12 s = .next t) : Keeps s i t := by
  refine .of_guarded h (.ite .fault ?_)
  split
  · exact .respond
  · exact .respond

theorem execBlkConfig_keeps {n : BitVec 8} {t : State} (h : execBlkConfig n s = .next t) : Keeps s i t := by
  refine .of_guarded h ?_
  split
  · exact .fault
  · exact .respond

end Runs

/-- Every command but `BLK.RESET` keeps all that its rules do not write. -/
theorem exec_keeps {i : Instr} {s t : State} (hreset : i ≠ .blkReset) (h : exec i s = .next t) : Keeps s i t := by
  cases i with
  | bfExtract value start size => exact .of_guarded h (.ite .fault (.ite .fault .respond))
  | bfTestbit value index => exact .of_guarded h (.ite .fault .respond)
  | bsRange seq lo hi => exact .of_guarded h (.ite .fault (.ite .fault .respond))
  | crcCompute seq => exact .of_guarded h .respond
  | crcCheck seq => exact .of_guarded h .respond
  | crcTable index => exact .of_guarded h .respond
  | scCondition lo hi => exact .of_guarded h (.ite .fault .respond)
  | pePower s0 s1 s2 s3 s4 s5 s6 s7 => exact execPePower_keeps h
  | winGet idx => exact .of_guarded h (.ite .fault (.settle_of_reads rfl (winGetRun_keeps _ idx)))
  | winAdvance => exact .of_guarded h (.settle_of_reads rfl (respondEmpty_keeps rfl rfl (advanceRun_writes s)))
  | winAdvanceby n => exact .of_guarded h (.settle_of_reads rfl (respondEmpty_keeps rfl rfl (advanceByRun_writes _ s)))
  | winIsfull => exact execWinIsfull_keeps h
  | winPosition => exact .of_guarded h .respond
  | demSize byte0 => exact .of_guarded h .respond
  | demNext => exact .of_guarded h (.settle_of_reads rfl (demRespond_keeps (demRun_writes s)))
  | frmInject ts frame => exact .of_guarded h (.ite .fault (.ite .respond (.ite .respond { frame := nofun })))
  | frmTs => exact .of_guarded h .withFrame
  | frmDf => exact .of_guarded h .withFrame
  | frmCa => exact .of_guarded h .withFrame
  | frmIcao => exact .of_guarded h .withFrame
  | frmMe => exact .of_guarded h .withFrame
  | frmTc => exact .of_guarded h .withFrame
  | frmBytes => exact .of_guarded h .withFrame
  | msgDecode => exact execMsgDecode_keeps h
  | altDecode alt12 => exact execAltDecode_keeps h
  | grayDecode v n => exact .of_guarded h (.ite .fault (.ite .fault .respond))
  | csChar code => exact .of_guarded h (.ite .fault .respond)
  | cprMerge x0 y0 x1 y1 recent => exact .of_guarded h .respond
  | trkUpdate msg => exact execTrkUpdate_keeps h
  | trkPurge now => exact .of_guarded h (.ite .fault { table := nofun, ev := nofun })
  | trkRead icao => exact .of_guarded h .respond
  | trkLast => exact .of_guarded h .respond
  | evPop => exact .of_guarded h { ev := fun _ hne => absurd rfl hne }
  | pipeStep => exact .of_guarded h (.settle_of_reads rfl (pipeRun_keeps (demRun_writes s)))
  | blkReset => exact absurd rfl hreset
  | blkStatus =>
    obtain ⟨_, rfl⟩ := unguarded_cases h
    exact .respond
  | blkConfig n => exact execBlkConfig_keeps h

/-! ## Reset -/

/-- Every entry of `TABLE` is the bitwise CRC of its index (R452). -/
theorem crcEntry_eq_bitcrc (b : Byte) : crcEntry b = bitcrc [b] := by
  revert b
  decide +kernel

/-- Samples before the start of the stream are 0 (R511). -/
theorem reset_hist : State.reset.hist = List.replicate 8 0#12 := rfl

end Sys2Proof.Machine

namespace Sys2Proof.Proofs

open Sys2Proof Sys2Proof.Machine

/-- Settles O15: every command but `BLK.RESET` keeps all that its rules do not write, and `BLK.RESET` is on every list. -/
theorem eachStateIsChangedOnlyByItsCommands : Obligations.EachStateIsChangedOnlyByItsCommands := by
  unfold Obligations.EachStateIsChangedOnlyByItsCommands
  intro i s t h
  by_cases hreset : i = .blkReset
  · subst hreset
    rw [exec_blkReset] at h
    obtain ⟨_, rfl⟩ := unguarded_cases h
    exact ⟨fun hne => absurd rfl hne, nofun, nofun, nofun, nofun, fun _ hne => absurd rfl hne, nofun,
      fun _ hne => absurd rfl hne, fun hne => absurd rfl hne, rfl, rfl⟩
  · have hkeeps := exec_keeps hreset h
    exact ⟨fun _ => hkeeps.faultRegisters, hkeeps.window, hkeeps.dstate, hkeeps.frame, hkeeps.table,
      fun hi _ => hkeeps.lastNs hi, hkeeps.ev, fun hi _ => hkeeps.samples hi, fun _ => hkeeps.stream, hkeeps.cfg, hkeeps.inbox⟩

/-- Settles O1: the values of R165 are those of `State.reset`, and the table is checked entry by entry. -/
theorem resetState : Obligations.ResetState := by
  unfold Obligations.ResetState
  exact ⟨rfl, rfl, rfl, rfl, reset_hist, rfl, rfl, rfl, rfl, rfl, rfl, rfl, rfl, rfl, crcEntry_eq_bitcrc⟩

/-- Settles O17: at reset there is no fault, no frame, no entry and no waiting command, and the left edge is at 0. -/
theorem resetMeetsTheInvariant : Obligations.ResetMeetsTheInvariant := by
  unfold Obligations.ResetMeetsTheInvariant
  exact {
    noFault := fun _ => ⟨rfl, rfl⟩
    causeLegal := nofun
    frame := nofun
    table := tableWf_nil
    entries := nofun
    lastNone := fun _ => rfl
    position := Nat.zero_le _
    doneEos := nofun
    waiting := nofun }

end Sys2Proof.Proofs
end

section
/-! PROOFS. The command words: 30_encoding.md R300 to R304. Each command is decoded from its own encoding, and the opcodes that the
decoder rejects are those outside the table. -/

namespace Sys2Proof

/-! ## The decoder, one equation per outcome (R303) -/

theorem decode_of_operandsOf_none {op : Byte} (hop : operandsOf op = none) (r : List Byte) :
    decode (op :: r) = .error (.illegalOpcode op) := by
  simp only [decode, hop]

theorem decode_of_operands_none {op : Byte} {operands : List Byte → Option Instr} {r : List Byte}
    (hop : operandsOf op = some operands) (hr : operands r = none) : decode (op :: r) = .error (.truncated op) := by
  simp only [decode, hop, hr]

theorem decode_of_operands_some {op : Byte} {operands : List Byte → Option Instr} {r : List Byte} {i : Instr}
    (hop : operandsOf op = some operands) (hr : operands r = some i) : decode (op :: r) = .ok i := by
  simp only [decode, hop, hr]

/-- The bytes for which the decoder has a reader are the opcodes of R302. -/
theorem operandsOf_isSome_iff (op : Byte) : (operandsOf op).isSome ↔ op.toNat ∈ Machine.tableOpcodes := by
  revert op
  decide +kernel

/-! ## Fields packed into one number (R302, R304) -/

/-- What stands at bit `k` of the low `n` bytes of `v` is `x`, if the bits are those of `x`. -/
theorem ofNat_shiftRight_eq {n v k w : Nat} {x : BitVec w} (hfit : k + w ≤ 8 * n)
    (hbits : ∀ i < w, v.testBit (k + i) = x.getLsbD i) : BitVec.ofNat w ((v % 256 ^ n) >>> k) = x := by
  refine BitVec.eq_of_getLsbD_eq fun i hi => ?_
  have hin : k + i < 8 * n := by omega
  rw [BitVec.getLsbD_ofNat, Nat.testBit_shiftRight, show 256 ^ n = 2 ^ (8 * n) by rw [pow_mul]; rfl,
    Nat.testBit_mod_two_pow, hbits i hi]
  simp only [hi, hin, decide_true, Bool.true_and]

/-! At a bit of a shifted field, and above and below it. -/

section Packed

variable {w : Nat} (x : BitVec w)

theorem testBit_shiftLeft_toNat (k i : Nat) : (x.toNat <<< k).testBit (k + i) = x.getLsbD i := by
  simp [BitVec.testBit_toNat]

theorem testBit_shiftLeft_toNat_above {k j : Nat} (h : k + w ≤ j) : (x.toNat <<< k).testBit j = false := by
  rw [Nat.testBit_shiftLeft, BitVec.testBit_toNat, BitVec.getLsbD_of_ge x (j - k) (by omega), Bool.and_false]

theorem testBit_shiftLeft_toNat_below {k j : Nat} (h : j < k) : (x.toNat <<< k).testBit j = false := by
  rw [Nat.testBit_shiftLeft, decide_eq_false (by omega), Bool.false_and]

end Packed

/-! ## Decoding an encoding, operand by operand -/

/-- Each field is read back from its own bytes; `x` and `y` share five (R304). -/
theorem decodeMsg_encodeMsg {msg : MsgOperand} (h : msg.wellFormed = true) (rest : List Byte) :
    decodeMsg (encodeMsg msg ++ rest) = some msg := by
  cases msg with
  | ident ts icao category callSign =>
    have hseq := takeSeq_encodeSeq (of_decide_eq_true h) rest
    simp [encodeMsg, decodeMsg, hseq]
  | position ts icao altitudeM parity x y =>
    have hx : BitVec.ofNat 17 (((x.toNat <<< 23 ||| y.toNat <<< 6) % 256 ^ 5) >>> 23) = x :=
      ofNat_shiftRight_eq (by decide) fun i _ => by
        rw [Nat.testBit_or, testBit_shiftLeft_toNat, testBit_shiftLeft_toNat_above y (by omega), Bool.or_false]
    have hy : BitVec.ofNat 17 (((x.toNat <<< 23 ||| y.toNat <<< 6) % 256 ^ 5) >>> 6) = y :=
      ofNat_shiftRight_eq (by decide) fun i hi => by
        rw [Nat.testBit_or, testBit_shiftLeft_toNat, testBit_shiftLeft_toNat_below x (by omega), Bool.false_or]
    simp [encodeMsg, decodeMsg, hx, hy, -Nat.reducePow]
  | velocity ts icao speedMps trackRad => simp [encodeMsg, decodeMsg]
  | badTag tag =>
    obtain ⟨h1, h2, h3⟩ := of_decide_eq_true h
    simp [encodeMsg, decodeMsg, h1, h2, h3]

theorem decode_encode_of_operands {i : Instr} {operands : List Byte → Option Instr} {rest : List Byte}
    (hop : operandsOf (opcode i) = some operands) (hr : operands (encodeOperands i ++ rest) = some i) :
    decode (encode i ++ rest) = .ok i :=
  decode_of_operands_some hop hr

/-- The five fields of `CPR.MERGE` share nine bytes; at the bits of one field the others are 0. -/
theorem decode_encode_cprMerge (x0 y0 x1 y1 : BitVec 17) (recent : BitVec 1) (rest : List Byte) :
    decode (encode (.cprMerge x0 y0 x1 y1 recent) ++ rest) = .ok (.cprMerge x0 y0 x1 y1 recent) := by
  refine decode_encode_of_operands rfl ?_
  simp only [encodeOperands, takeBE_toBE, Option.map_some]
  congr 2
  all_goals
    refine ofNat_shiftRight_eq (by decide) fun i hi => ?_
    simp (disch := omega) only [Nat.testBit_or, testBit_shiftLeft_toNat, testBit_shiftLeft_toNat_above,
      testBit_shiftLeft_toNat_below, Bool.or_false, Bool.false_or]

theorem decode_encode {i : Instr} (h : i.wellFormed = true) (rest : List Byte) : decode (encode i ++ rest) = .ok i := by
  cases i with
  | bfExtract value start size => exact decode_encode_of_operands rfl (by simp [encodeOperands])
  | bfTestbit value index => exact decode_encode_of_operands rfl (by simp [encodeOperands])
  | bsRange seq lo hi =>
    exact decode_encode_of_operands rfl (by simp [encodeOperands, takeSeq_encodeSeq (of_decide_eq_true h)])
  | crcCompute seq =>
    exact decode_encode_of_operands rfl (by simp [encodeOperands, takeSeq_encodeSeq (of_decide_eq_true h)])
  | crcCheck seq =>
    exact decode_encode_of_operands rfl (by simp [encodeOperands, takeSeq_encodeSeq (of_decide_eq_true h)])
  | crcTable index => exact decode_encode_of_operands rfl (by simp [encodeOperands])
  | scCondition lo hi => exact decode_encode_of_operands rfl (by simp [encodeOperands])
  | pePower s0 s1 s2 s3 s4 s5 s6 s7 => exact decode_encode_of_operands rfl (by simp [encodeOperands])
  | winGet i => exact decode_encode_of_operands rfl (by simp [encodeOperands])
  | winAdvance => rfl
  | winAdvanceby n => exact decode_encode_of_operands rfl (by simp [encodeOperands])
  | winIsfull => rfl
  | winPosition => rfl
  | demSize byte0 => exact decode_encode_of_operands rfl (by simp [encodeOperands])
  | demNext => rfl
  | frmInject ts frame =>
    have hlen : frame.length = Config.frameBytes := of_decide_eq_true h
    exact decode_encode_of_operands rfl (by simp [encodeOperands, hlen, List.take_left' hlen])
  | frmTs => rfl
  | frmDf => rfl
  | frmCa => rfl
  | frmIcao => rfl
  | frmMe => rfl
  | frmTc => rfl
  | frmBytes => rfl
  | msgDecode => rfl
  | altDecode alt12 => exact decode_encode_of_operands rfl (by simp [encodeOperands])
  | grayDecode v n => exact decode_encode_of_operands rfl (by simp [encodeOperands])
  | csChar code => exact decode_encode_of_operands rfl (by simp [encodeOperands])
  | cprMerge x0 y0 x1 y1 recent => exact decode_encode_cprMerge x0 y0 x1 y1 recent rest
  | trkUpdate msg => exact decode_encode_of_operands rfl (by simp [encodeOperands, decodeMsg_encodeMsg h])
  | trkPurge now => exact decode_encode_of_operands rfl (by simp [encodeOperands])
  | trkRead icao => exact decode_encode_of_operands rfl (by simp [encodeOperands])
  | trkLast => rfl
  | evPop => rfl
  | pipeStep => rfl
  | blkReset => rfl
  | blkStatus => rfl
  | blkConfig n => exact decode_encode_of_operands rfl (by simp [encodeOperands])

/-! ## Opcodes in and outside the table (R303) -/

theorem decode_of_not_mem_tableOpcodes {op : Byte} (hop : op.toNat ∉ Machine.tableOpcodes) (r : List Byte) :
    decode (op :: r) = .error (.illegalOpcode op) :=
  decode_of_operandsOf_none (Option.not_isSome_iff_eq_none.mp (mt (operandsOf_isSome_iff op).mp hop)) r

theorem decode_ne_illegalOpcode {op : Byte} (hop : op.toNat ∈ Machine.tableOpcodes) (r : List Byte) :
    decode (op :: r) ≠ .error (.illegalOpcode op) := by
  obtain ⟨operands, hoperands⟩ := Option.isSome_iff_exists.mp ((operandsOf_isSome_iff op).mpr hop)
  cases hr : operands r with
  | none => simp [decode_of_operands_none hoperands hr]
  | some i => simp [decode_of_operands_some hoperands hr]

end Sys2Proof

namespace Sys2Proof.Machine

/-- The host issues a command word to a block that runs commands and in which none waits. -/
theorem fetch_issue {s : State} {command : List Byte} {rest : List HostAct} (hc : s.cause.toNat < 16)
    (hpending : s.pending = none) (hinbox : s.inbox = .issue command :: rest) :
    fetch s = fetchCommand { s with inbox := rest } command := by
  simp [fetch, State.causeReserved, Nat.not_le.mpr hc, fetchNext, hinbox, hpending, fetchIdle]

/-- A word with an opcode outside the table faults a block in which no fault is recorded (R303). -/
theorem fetchCommand_illegal {s : State} {op : Byte} (hf : s.faulted = false) (hop : op.toNat ∉ tableOpcodes)
    (bs : List Byte) : fetchCommand s (op :: bs) = .settle (s.raiseFault .illegalCommand (op.setWidth 64)) := by
  simp [fetchCommand, decode_of_not_mem_tableOpcodes hop, State.illegalCommand, hf]

end Sys2Proof.Machine

namespace Sys2Proof.Proofs

open Sys2Proof Sys2Proof.Machine

/-- Settles O4: every operand reader undoes its encoder and leaves the bytes that follow. -/
theorem decodeOfEncodeIsTheCommand : Obligations.DecodeOfEncodeIsTheCommand := by
  unfold Obligations.DecodeOfEncodeIsTheCommand
  exact fun _ rest h => decode_encode h rest

/-- Settles O5: the decoder has a reader for the opcodes of the table and for no other byte. -/
theorem illegalOpcodeFaults : Obligations.IllegalOpcodeFaults := by
  unfold Obligations.IllegalOpcodeFaults
  refine ⟨fun s op bs rest hready hpending hinbox hop => ?_, fun op bs hop => decode_ne_illegalOpcode hop bs⟩
  obtain ⟨hf, hc⟩ := hready
  rw [step, fetch_issue hc hpending hinbox, fetchCommand_illegal (s := { s with inbox := rest }) hf hop]
  rfl

/-- Settles O3: the decoder is run on each word. -/
theorem wordsDecodeAsTheTableSays : Obligations.WordsDecodeAsTheTableSays := by
  unfold Obligations.WordsDecodeAsTheTableSays
  exact ⟨rfl, rfl, rfl, rfl, rfl, rfl, rfl, rfl, rfl, rfl, rfl, rfl, rfl, rfl, rfl, rfl, rfl, rfl, rfl⟩

end Sys2Proof.Proofs
end

section
/-! PROOFS. The bit-field extractor and the byte-sequence reader: 40_bitfield.md R401 to R410. Each command has one law for each way
that it ends, and its result is a law about the shared operation it calls. -/

namespace Sys2Proof

/-- A stretch of a byte list, read byte by byte. -/
theorem take_drop_eq_map_range {bs : List Byte} {lo n : Nat} (h : lo + n ≤ bs.length) :
    (bs.drop lo).take n = (List.range n).map fun k => bs.getD (lo + k) 0#8 := by
  refine List.ext_getElem (by simp; omega) fun k hk _ => ?_
  have hin : lo + k < bs.length := by simp at hk; omega
  simp [hin]

theorem beNat_take_drop {bs : List Byte} {lo n : Nat} (h : lo + n ≤ bs.length) :
    beNat ((bs.drop lo).take n) = (List.range n).foldl (fun r k => r * 256 + (bs.getD (lo + k) 0#8).toNat) 0 := by
  rw [take_drop_eq_map_range h, beNat, List.foldl_map]

end Sys2Proof

namespace Sys2Proof.Machine

/-! ## Information words of one, two and three bytes (R906) -/

theorem infoWord_one (a : BitVec 8) : infoWord [a] = a.setWidth 64 := by
  simp [infoWord, beNat]

theorem infoWord_two (a b : BitVec 8) : infoWord [a, b] = BitVec.ofNat 64 (a.toNat * 256 + b.toNat) := by
  simp [infoWord, beNat]

theorem infoWord_three (a b c : BitVec 8) :
    infoWord [a, b, c] = BitVec.ofNat 64 (a.toNat * 65536 + b.toNat * 256 + c.toNat) := by
  rw [infoWord]
  refine congrArg (BitVec.ofNat 64) ?_
  simp only [beNat, List.foldl_cons, List.foldl_nil]
  omega

/-- A length of at most 255 fits the byte it has in the information word of `BS.RANGE`. -/
theorem infoWord_length (lo hi : BitVec 8) {len : Nat} (h : len ≤ 255) :
    infoWord [lo, hi, BitVec.ofNat 8 len] = BitVec.ofNat 64 (lo.toNat * 65536 + hi.toNat * 256 + len) := by
  rw [infoWord_three, BitVec.toNat_ofNat, Nat.mod_eq_of_lt (by omega)]

/-! ## The field of a word (R401, R402, R406) -/

theorem extractUnsigned_eq_ofNat (v : BitVec 64) (start size : Nat) :
    extractUnsigned v start size = BitVec.ofNat 32 (v.toNat / 2 ^ start % 2 ^ size) := by
  refine BitVec.eq_of_toNat_eq ?_
  simp [extractUnsigned, Nat.shiftRight_eq_div_pow]

/-- Bit `k` of the result is bit `start + k` of the word, up to the size of the field. -/
theorem getLsbD_extractUnsigned (v : BitVec 64) (start size : Nat) {k : Nat} (hk : k < 32) :
    (extractUnsigned v start size).getLsbD k = (decide (k < size) && v.getLsbD (start + k)) := by
  simp [extractUnsigned, hk]

theorem extractUnsigned_congr {v w : BitVec 64} {start size : Nat}
    (h : ∀ k, k < size → v.getLsbD (start + k) = w.getLsbD (start + k)) :
    extractUnsigned v start size = extractUnsigned w start size := by
  refine BitVec.eq_of_getLsbD_eq fun k hk => ?_
  rw [getLsbD_extractUnsigned v start size hk, getLsbD_extractUnsigned w start size hk]
  by_cases hsize : k < size
  · rw [h k hsize]
  · simp [hsize]

/-- Extraction undoes a shift to the field, for a value that fits it. -/
theorem extractUnsigned_shiftLeft {u : BitVec 64} {start size : Nat} (hu : u.toNat < 2 ^ size) (hfit : start + size ≤ 64) :
    extractUnsigned (u <<< start) start size = u.setWidth 32 := by
  have hshift : u.toNat * 2 ^ start < 2 ^ 64 :=
    calc u.toNat * 2 ^ start < 2 ^ size * 2 ^ start := Nat.mul_lt_mul_of_pos_right hu (Nat.two_pow_pos start)
      _ = 2 ^ (start + size) := by rw [Nat.add_comm, pow_add]
      _ ≤ 2 ^ 64 := Nat.pow_le_pow_right (by decide) hfit
  rw [extractUnsigned_eq_ofNat, BitVec.toNat_shiftLeft, Nat.shiftLeft_eq, Nat.mod_eq_of_lt hshift,
    Nat.mul_div_cancel _ (Nat.two_pow_pos start), Nat.mod_eq_of_lt hu, BitVec.ofNat_toNat]

/-- The field of size 1 is the bit (R406). -/
theorem extractUnsigned_one (v : BitVec 64) (i : Nat) : extractUnsigned v i 1 = (testBit v i).setWidth 32 := by
  refine BitVec.eq_of_getLsbD_eq fun k hk => ?_
  rw [getLsbD_extractUnsigned v i 1 hk]
  cases k with
  | zero => simp [testBit]
  | succ k => simp [testBit]

/-! ## How the commands end -/

section Commands

variable {s : State}

theorem bfExtract_faults_size (h : s.ready) (value : BitVec 64) {start size : BitVec 8}
    (hsize : ¬(0 < size.toNat ∧ size.toNat < 32)) :
    faults s (.bfExtract value start size) .bfSize (infoWord [start, size]) := by
  rw [faults, exec, execBfExtract, guarded_ready h, if_pos hsize, State.raiseFault]

theorem bfExtract_faults_range (h : s.ready) (value : BitVec 64) {start size : BitVec 8}
    (hsize : 0 < size.toNat ∧ size.toNat < 32) (hrange : 64 < start.toNat + size.toNat) :
    faults s (.bfExtract value start size) .bfRange (infoWord [start, size]) := by
  rw [faults, exec, execBfExtract, guarded_ready h, if_neg (not_not_intro hsize), if_pos (Nat.not_le.mpr hrange),
    State.raiseFault]

theorem bfExtract_answers (h : s.ready) (value : BitVec 64) {start size : BitVec 8}
    (hsize : 0 < size.toNat ∧ size.toNat < 32) (hrange : start.toNat + size.toNat ≤ 64) :
    answers s (.bfExtract value start size) .ok (.bits 32 (extractUnsigned value start.toNat size.toNat)) := by
  rw [answers, exec, execBfExtract, guarded_ready h, if_neg (not_not_intro hsize), if_neg (not_not_intro hrange),
    State.respond]

theorem bfTestbit_faults (h : s.ready) (value : BitVec 64) {index : BitVec 8} (hindex : 64 ≤ index.toNat) :
    faults s (.bfTestbit value index) .bfIndex (infoWord [index]) := by
  rw [faults, exec, execBfTestbit, guarded_ready h, if_pos (Nat.not_lt.mpr hindex), State.raiseFault]

theorem bfTestbit_answers (h : s.ready) (value : BitVec 64) {index : BitVec 8} (hindex : index.toNat < 64) :
    answers s (.bfTestbit value index) .ok (.bits 1 (testBit value index.toNat)) := by
  rw [answers, exec, execBfTestbit, guarded_ready h, if_neg (not_not_intro hindex), State.respond]

theorem bsRange_faults_range (h : s.ready) {seq : List Byte} {lo hi : BitVec 8}
    (hrange : ¬(lo.toNat ≤ hi.toNat ∧ hi.toNat ≤ seq.length)) :
    faults s (.bsRange seq lo hi) .bsRange (infoWord [lo, hi, BitVec.ofNat 8 seq.length]) := by
  rw [faults, exec, execBsRange, guarded_ready h, if_pos hrange, State.raiseFault]

theorem bsRange_faults_width (h : s.ready) {seq : List Byte} {lo hi : BitVec 8}
    (hrange : lo.toNat ≤ hi.toNat ∧ hi.toNat ≤ seq.length) (hwidth : Config.rangeMax < hi.toNat - lo.toNat) :
    faults s (.bsRange seq lo hi) .bsWidth (infoWord [lo, hi, BitVec.ofNat 8 seq.length]) := by
  rw [faults, exec, execBsRange, guarded_ready h, if_neg (not_not_intro hrange), if_pos (Nat.not_le.mpr hwidth),
    State.raiseFault]

theorem bsRange_answers (h : s.ready) {seq : List Byte} {lo hi : BitVec 8}
    (hrange : lo.toNat ≤ hi.toNat ∧ hi.toNat ≤ seq.length) (hwidth : hi.toNat - lo.toNat ≤ Config.rangeMax) :
    answers s (.bsRange seq lo hi) .ok (.bits 64 (byteRange seq lo.toNat hi.toNat)) := by
  rw [answers, exec, execBsRange, guarded_ready h, if_neg (not_not_intro hrange), if_neg (not_not_intro hwidth),
    State.respond]

end Commands

end Sys2Proof.Machine

namespace Sys2Proof.Proofs

open Sys2Proof Sys2Proof.Machine

/-- Settles O18: the laws of the two commands' ends, with the field as a number, bit by bit, after a shift, and at size 1. -/
theorem extractAndTestBitReadFields : Obligations.ExtractAndTestBitReadFields := by
  unfold Obligations.ExtractAndTestBitReadFields
  refine ⟨⟨fun s value start size hready => ?_, fun s start size hready hpos hlt hfit => ⟨fun v w hbits => ?_, fun u hu => ?_⟩⟩,
    fun s value index hready => ?_⟩
  · rw [← infoWord_two, ← extractUnsigned_eq_ofNat]
    exact ⟨bfExtract_faults_size hready value, fun hpos hlt => bfExtract_faults_range hready value ⟨hpos, hlt⟩,
      fun hpos hlt => bfExtract_answers hready value ⟨hpos, hlt⟩⟩
  · have hv := bfExtract_answers hready v ⟨hpos, hlt⟩ hfit
    rw [extractUnsigned_congr hbits] at hv
    exact hv.trans (bfExtract_answers hready w ⟨hpos, hlt⟩ hfit).symm
  · rw [← extractUnsigned_shiftLeft hu hfit]
    exact bfExtract_answers hready _ ⟨hpos, hlt⟩ hfit
  · rw [← infoWord_one]
    refine ⟨bfTestbit_faults hready value, fun hindex => ⟨bfTestbit_answers hready value hindex, ?_⟩⟩
    have hbit := bfExtract_answers hready value (start := index) (size := 1#8) (by decide) hindex
    rwa [show (1#8 : BitVec 8).toNat = 1 from rfl, extractUnsigned_one] at hbit

/-- Settles O19: the laws of the command's ends, with the range of bytes read by position. -/
theorem rangeReadsABigEndianInteger : Obligations.RangeReadsABigEndianInteger := by
  unfold Obligations.RangeReadsABigEndianInteger
  intro s seq lo hi hready hlen
  rw [← infoWord_length lo hi hlen]
  refine ⟨bsRange_faults_range hready, fun hle hin => bsRange_faults_width hready ⟨hle, hin⟩, fun hle hin hwidth => ?_⟩
  rw [← beNat_take_drop (by omega)]
  exact bsRange_answers hready ⟨hle, hin⟩ hwidth

end Sys2Proof.Proofs
end

section
/-! PROOFS. The CRC-24 validator: 41_crc24.md R451 to R462. One byte of the bitwise recurrence is one step of the table recurrence.
It is linear over XOR, and injective in the register and in the byte. -/

namespace Sys2Proof.Machine

/-! ## One bit (R451) -/

/-- The generator is odd, so bit 0 tells whether the register was reduced. -/
@[simp] theorem getElem_bitcrcStep_zero (r : BitVec 24) (b : Bool) : (bitcrcStep r b)[0] = (b ^^ r[23]) := by
  cases htop : r[23] <;> simp [bitcrcStep, htop, Config.gen]

@[simp] theorem getElem_bitcrcStep_succ (r : BitVec 24) (b : Bool) {k : Nat} (hk : k + 1 < 24) :
    (bitcrcStep r b)[k + 1] = (r[k] ^^ (r[23] && Config.gen[k + 1])) := by
  cases htop : r[23] <;> simp [bitcrcStep, htop]

theorem bitcrcStep_xor (r q : BitVec 24) (a b : Bool) :
    bitcrcStep (r ^^^ q) (a ^^ b) = bitcrcStep r a ^^^ bitcrcStep q b := by
  ext k hk
  cases k with
  | zero => simp [Bool.xor_left_comm b]
  | succ k => simp [Bool.and_xor_distrib_right, Bool.xor_left_comm q[k]]

theorem bitcrcStep_right_cancel {r q : BitVec 24} {b : Bool} (h : bitcrcStep r b = bitcrcStep q b) : r = q := by
  have htop : r[23] = q[23] := by
    have hzero : (bitcrcStep r b)[0] = (bitcrcStep q b)[0] := by rw [h]
    simpa using hzero
  ext k hk
  obtain hlow | rfl : k + 1 < 24 ∨ k = 23 := by omega
  · have hsucc : (bitcrcStep r b)[k + 1] = (bitcrcStep q b)[k + 1] := by rw [h]
    simpa [htop] using hsucc
  · exact htop

/-- A register with top bit 0 is not reduced: the step reads `v` one bit further. -/
theorem bitcrcStep_ushiftRight (v : BitVec 24) (k : Nat) : bitcrcStep (v >>> (k + 1)) (v.getLsbD k) = v >>> k := by
  ext i hi
  cases i with
  | zero => simp
  | succ i => simp [Nat.add_comm, Nat.add_left_comm]

/-! ## One byte (R451) -/

/-- The bits of one byte, most significant first. -/
def bitcrcByte (r : BitVec 24) (b : Byte) : BitVec 24 :=
  (List.range 8).foldl (fun r i => bitcrcStep r (b.getLsbD (7 - i))) r

theorem bitcrcByte_xor (r q : BitVec 24) (a b : Byte) :
    bitcrcByte (r ^^^ q) (a ^^^ b) = bitcrcByte r a ^^^ bitcrcByte q b := by
  unfold bitcrcByte
  generalize List.range 8 = is
  induction is generalizing r q with
  | nil => rfl
  | cons i is ih => rw [List.foldl_cons, BitVec.getLsbD_xor, bitcrcStep_xor, ih, List.foldl_cons, List.foldl_cons]

theorem bitcrcByte_right_cancel {r q : BitVec 24} {b : Byte} (h : bitcrcByte r b = bitcrcByte q b) : r = q := by
  unfold bitcrcByte at h
  generalize List.range 8 = is at h
  induction is generalizing r q with
  | nil => exact h
  | cons i is ih => exact bitcrcStep_right_cancel (ih h)

/-- A register with top byte 0 is not reduced: the byte reads `v` eight bits further. -/
theorem bitcrcByte_ushiftRight (v : BitVec 24) (k : Nat) :
    bitcrcByte (v >>> (k + 8)) (v.extractLsb' k 8) = v >>> k := by
  have hbits (n : Nat) (hn : n ≤ 8) : (List.range n).foldl (fun r i => bitcrcStep r ((v.extractLsb' k 8).getLsbD (7 - i)))
      (v >>> (k + 8)) = v >>> (k + (8 - n)) := by
    induction n with
    | zero => rfl
    | succ n ih =>
      have hbit : (v.extractLsb' k 8).getLsbD (7 - n) = v.getLsbD (k + (7 - n)) := by simp; omega
      rw [List.range_succ, List.foldl_append, ih (by omega), List.foldl_cons, List.foldl_nil, hbit,
        show k + (8 - n) = k + (7 - n) + 1 by omega, bitcrcStep_ushiftRight, show 8 - (n + 1) = 7 - n by omega]
  exact hbits 8 le_rfl

theorem bitcrcByte_zero_left (b : Byte) : bitcrcByte 0#24 b = b.setWidth 24 := by
  have hhigh : b.setWidth 24 >>> (0 + 8) = 0#24 := by ext; simp
  have hlow : (b.setWidth 24).extractLsb' 0 8 = b := by
    ext k hk
    simp [hk, show k < 24 by omega]
  simpa [hhigh, hlow] using bitcrcByte_ushiftRight (b.setWidth 24) 0

theorem bitcrcByte_left_cancel {r : BitVec 24} {a b : Byte} (h : bitcrcByte r a = bitcrcByte r b) : a = b := by
  have hsplit (b : Byte) : bitcrcByte r b = bitcrcByte r 0#8 ^^^ b.setWidth 24 := by
    rw [← bitcrcByte_zero_left, ← bitcrcByte_xor, BitVec.xor_zero, BitVec.zero_xor]
  rw [hsplit, hsplit b, BitVec.xor_right_inj] at h
  simpa using congrArg (BitVec.setWidth 8) h

/-! ## Byte sequences (R451) -/

/-- The 24 zero bits that end the bitwise CRC are three zero bytes. -/
theorem bitcrc_eq_foldl (bs : List Byte) : bitcrc bs = [0#8, 0#8, 0#8].foldl bitcrcByte (bs.foldl bitcrcByte 0#24) := rfl

theorem foldl_bitcrcByte_xor (r q : BitVec 24) {as bs : List Byte} (hlen : as.length = bs.length) :
    (List.zipWith (· ^^^ ·) as bs).foldl bitcrcByte (r ^^^ q) = as.foldl bitcrcByte r ^^^ bs.foldl bitcrcByte q := by
  induction as generalizing r q bs with
  | nil => rw [List.eq_nil_of_length_eq_zero hlen.symm]; rfl
  | cons a as ih =>
    obtain ⟨b, bs, rfl⟩ := List.exists_cons_of_length_eq_add_one hlen.symm
    rw [List.zipWith_cons_cons, List.foldl_cons, bitcrcByte_xor, ih _ _ (Nat.succ.inj hlen), List.foldl_cons, List.foldl_cons]

theorem foldl_bitcrcByte_right_cancel (bs : List Byte) {r q : BitVec 24}
    (h : bs.foldl bitcrcByte r = bs.foldl bitcrcByte q) : r = q := by
  induction bs generalizing r q with
  | nil => exact h
  | cons b bs ih => exact bitcrcByte_right_cancel (ih h)

theorem bitcrc_xor {as bs : List Byte} (hlen : as.length = bs.length) :
    bitcrc (List.zipWith (· ^^^ ·) as bs) = bitcrc as ^^^ bitcrc bs := by
  rw [bitcrc_eq_foldl, bitcrc_eq_foldl, bitcrc_eq_foldl, ← foldl_bitcrcByte_xor _ _ rfl, ← foldl_bitcrcByte_xor _ _ hlen]
  rfl

/-- The bytes of a check word, read after a register that is 0, are the word. -/
theorem foldl_bitcrcByte_checkBytes (check : BitVec 24) :
    [check.extractLsb' 16 8, check.extractLsb' 8 8, check.extractLsb' 0 8].foldl bitcrcByte 0#24 = check := by
  have hzero : check >>> (16 + 8) = 0#24 := by ext; simp
  simp only [List.foldl_cons, List.foldl_nil]
  rw [← hzero, bitcrcByte_ushiftRight check 16, bitcrcByte_ushiftRight check 8, bitcrcByte_ushiftRight check 0,
    BitVec.ushiftRight_zero]

/-! ## The table recurrence (R455) -/

/-- The top byte of the register leaves its table entry: two of the zero bytes of `bitcrc [t]` bring `t` to the top. -/
theorem bitcrcByte_top (t : Byte) : bitcrcByte (t.setWidth 24 <<< 16) 0#8 = crcEntry t := by
  have hbytes : [t, 0#8, 0#8].foldl bitcrcByte 0#24 = t.setWidth 24 <<< 16 := by
    have htop : (t.setWidth 24 <<< 16).extractLsb' 16 8 = t := by
      ext k hk
      simp [show 16 + k < 24 by omega, BitVec.getLsbD_eq_getElem hk]
    have hmid : (t.setWidth 24 <<< 16).extractLsb' 8 8 = 0#8 := by
      ext k hk
      simp [show 8 + k < 16 by omega]
    have hlow : (t.setWidth 24 <<< 16).extractLsb' 0 8 = 0#8 := by
      ext k hk
      simp [show k < 16 by omega]
    have h := foldl_bitcrcByte_checkBytes (t.setWidth 24 <<< 16)
    rwa [htop, hmid, hlow] at h
  rw [crcEntry_eq_bitcrc, ← hbytes]
  rfl

/-- The shifted register has lost its top byte, which the table makes up for. -/
theorem crcStep_eq_bitcrcByte : crcStep = bitcrcByte := by
  funext r b
  generalize hv : (r <<< 8) ||| b.setWidth 24 = v
  have hr : r = (v >>> (0 + 8)) ^^^ ((r.extractLsb' 16 8).setWidth 24 <<< 16) := by
    subst hv
    ext k hk
    by_cases hlow : k < 16
    · simp [hlow, show 8 + k < 24 by omega]
    · simp [hlow, hk, show ¬8 + k < 24 by omega, show k - 16 < 8 by omega, show 16 + (k - 16) = k by omega]
  have hb : b = v.extractLsb' 0 8 ^^^ 0#8 := by
    subst hv
    ext k hk
    simp [hk, show k < 24 by omega]
  calc crcStep r b = v ^^^ crcEntry (r.extractLsb' 16 8) := by rw [crcStep, hv]
    _ = bitcrcByte ((v >>> (0 + 8)) ^^^ ((r.extractLsb' 16 8).setWidth 24 <<< 16)) (v.extractLsb' 0 8 ^^^ 0#8) := by
      rw [bitcrcByte_xor, bitcrcByte_ushiftRight, bitcrcByte_top, BitVec.ushiftRight_zero]
    _ = bitcrcByte r b := by rw [← hr, ← hb]

theorem crcBytes_eq_bitcrc (bs : List Byte) : crcBytes bs = bitcrc bs := by
  rw [crcBytes, crcStep_eq_bitcrcByte, List.foldl_append, bitcrc_eq_foldl]

/-! ## Check bytes and bit errors (R456, R461, R462) -/

/-- Three check bytes are added to the CRC of what stands before them. -/
theorem bitcrc_append_checkBytes (data : List Byte) (check : BitVec 24) :
    bitcrc (data ++ [check.extractLsb' 16 8, check.extractLsb' 8 8, check.extractLsb' 0 8]) =
      [0#8, 0#8, 0#8].foldl bitcrcByte (bitcrc data ^^^ check) := by
  have hadd := foldl_bitcrcByte_xor (data.foldl bitcrcByte 0#24) 0#24 (as := [0#8, 0#8, 0#8])
    (bs := [check.extractLsb' 16 8, check.extractLsb' 8 8, check.extractLsb' 0 8]) rfl
  rw [foldl_bitcrcByte_checkBytes, ← bitcrc_eq_foldl] at hadd
  rw [← hadd, bitcrc_eq_foldl, List.foldl_append]
  simp

theorem bitcrc_append_checkBytes_eq_zero_iff (data : List Byte) (check : BitVec 24) :
    bitcrc (data ++ [check.extractLsb' 16 8, check.extractLsb' 8 8, check.extractLsb' 0 8]) = 0#24 ↔ check = bitcrc data := by
  rw [bitcrc_append_checkBytes]
  have hzero : [0#8, 0#8, 0#8].foldl bitcrcByte 0#24 = 0#24 := by simp [bitcrcByte_zero_left]
  constructor
  · intro h
    exact (BitVec.xor_eq_zero_iff.mp (foldl_bitcrcByte_right_cancel _ (h.trans hzero.symm))).symm
  · rintro rfl
    rw [BitVec.xor_self, hzero]

/-- The byte at `k` is read after the same register, and the bytes behind it are the same. -/
theorem eq_of_foldl_bitcrcByte_set {bs : List Byte} {k : Nat} (hk : k < bs.length) {v : Byte} {r : BitVec 24}
    (h : (bs.set k v).foldl bitcrcByte r = bs.foldl bitcrcByte r) : v = bs[k] := by
  induction bs generalizing k r with
  | nil => exact absurd hk (Nat.not_lt_zero k)
  | cons b bs ih =>
    cases k with
    | zero => exact bitcrcByte_left_cancel (foldl_bitcrcByte_right_cancel bs h)
    | succ k => exact ih (Nat.lt_of_succ_lt_succ hk) h

theorem bitcrc_set_ne {bs : List Byte} {k : Nat} (hk : k < bs.length) {v : Byte} (hv : v ≠ bs[k]) :
    bitcrc (bs.set k v) ≠ bitcrc bs := by
  rw [bitcrc_eq_foldl, bitcrc_eq_foldl]
  exact fun h => hv (eq_of_foldl_bitcrcByte_set hk (foldl_bitcrcByte_right_cancel _ h))

theorem xor_one_shiftLeft_ne (b : Byte) {j : Nat} (hj : j < 8) : b ^^^ (1#8 <<< j) ≠ b := by
  intro h
  have hbit : (b ^^^ (1#8 <<< j)).getLsbD j = b.getLsbD j := by rw [h]
  simp [hj] at hbit

/-! ## How the commands end -/

section Commands

variable {s : State}

theorem crcTable_answers (h : s.ready) (index : BitVec 8) :
    answers s (.crcTable index) .ok (.bits 24 (crcEntry index)) := by
  rw [answers, exec, execCrcTable, guarded_ready h, State.respond]

theorem crcCompute_answers (h : s.ready) (seq : List Byte) :
    answers s (.crcCompute seq) .ok (.bits 24 (crcBytes seq)) := by
  rw [answers, exec, execCrcCompute, guarded_ready h, State.respond]

theorem crcCheck_answers (h : s.ready) (seq : List Byte) :
    answers s (.crcCheck seq) .ok (.bits 1 (BitVec.ofBool (crcBytes seq == 0#24))) := by
  rw [answers, exec, execCrcCheck, guarded_ready h, State.respond]

end Commands

end Sys2Proof.Machine

namespace Sys2Proof.Proofs

open Sys2Proof Sys2Proof.Machine

/-- Settles O20: the entries are bitwise CRCs of one byte, and the bitwise CRC is linear. -/
theorem tableHoldsTheBitwiseCrc : Obligations.TableHoldsTheBitwiseCrc := by
  unfold Obligations.TableHoldsTheBitwiseCrc
  intro s i j hready
  have hlinear : bitcrc [i ^^^ j] = bitcrc [i] ^^^ bitcrc [j] := bitcrc_xor (as := [i]) (bs := [j]) rfl
  rw [← hlinear, ← crcEntry_eq_bitcrc, ← crcEntry_eq_bitcrc]
  exact ⟨crcTable_answers hready i, crcTable_answers hready (i ^^^ j)⟩

/-- Settles O21: one step of the table recurrence is one byte of the bitwise one. -/
theorem computeAndCheckUseTheBitwiseCrc : Obligations.ComputeAndCheckUseTheBitwiseCrc := by
  unfold Obligations.ComputeAndCheckUseTheBitwiseCrc
  refine ⟨fun s seq hready => ?_, fun s seq hready => ?_⟩
  · rw [← crcBytes_eq_bitcrc]
    exact crcCompute_answers hready seq
  · have hcheck := crcCheck_answers hready seq
    rw [crcBytes_eq_bitcrc] at hcheck
    refine ⟨fun hzero => ?_, fun hne => ?_⟩
    · rwa [beq_iff_eq.mpr hzero] at hcheck
    · rwa [beq_false_of_ne hne] at hcheck

/-- Settles O22: check bytes are added to the CRC before them, and a changed byte leaves another register behind it. -/
theorem crcSealsFramesAndSeesBitErrors : Obligations.CrcSealsFramesAndSeesBitErrors := by
  unfold Obligations.CrcSealsFramesAndSeesBitErrors
  simp only [crcBytes_eq_bitcrc]
  refine ⟨bitcrc_append_checkBytes_eq_zero_iff, fun bs k j hk hj => bitcrc_set_ne hk ?_⟩
  rw [List.getD_eq_getElem _ _ hk]
  exact xor_one_shiftLeft_ne _ hj

end Sys2Proof.Proofs
end

section
/-! PROOFS. The sample conditioner and the power envelope: 42_conditioning_power.md R501 to R516. The stream and `PE.POWER` share
`powerOf`, whose value and bound are proved once. -/

namespace Sys2Proof.Machine

/-- A word below another in one number. -/
theorem shiftLeft_or_toNat (n : Nat) {w : Nat} (v : BitVec w) : n <<< w ||| v.toNat = n * 2 ^ w + v.toNat := by
  rw [← Nat.shiftLeft_add_eq_or_of_lt v.isLt, Nat.shiftLeft_eq]

/-- The raw word of two bytes (R501). -/
theorem toNat_or_shiftLeft (lo hi : BitVec 8) : lo.toNat ||| hi.toNat <<< 8 = lo.toNat + 256 * hi.toNat := by
  rw [Nat.or_comm, shiftLeft_or_toNat]
  omega

/-! ## Conditioned samples (R501, R502, R511) -/

/-- The values that a conditioned sample can have (R501). -/
abbrev isSample (v : Int) : Prop := -2048 ≤ v ∧ v ≤ 2047

theorem sampleAt_eq_streamSample (src : List Byte) (n : Int) : sampleAt src n = streamSample src n := by
  rw [sampleAt, streamSample, rawWord_eq]
  push_cast
  rfl

theorem isSample_streamSample {src : List Byte} {k : Nat} (h : legalPower src k) {n : Int} (hlo : 2 * (k : Int) - 6 ≤ n)
    (hhi : n ≤ 2 * (k : Int) + 1) : isSample (streamSample src n) := by
  unfold streamSample
  split
  · decide
  · have hword := h n.toNat (by omega) (by omega)
    omega

/-! ## The sum of two squares (R510, R513, R514) -/

theorem powerOf_cast (s0 s1 s2 s3 s4 s5 s6 s7 : Int) :
    (powerOf [s0, s1, s2, s3, s4, s5, s6, s7] : Int) = (s1 - s3 + s5 - s7) ^ 2 + (s0 - s2 + s4 - s6) ^ 2 := by
  rw [powerOf, Int.toNat_of_nonneg (add_nonneg (mul_self_nonneg _) (mul_self_nonneg _)), sq, sq]

/-- Each of the two sums is at most 2 · 2047 + 2 · 2048 = 8190 in absolute value (R514). -/
theorem powerOf_le {l : List Int} (h : ∀ v ∈ l, isSample v) : powerOf l ≤ 134152200 := by
  unfold powerOf
  split
  · next s0 s1 s2 s3 s4 s5 s6 s7 =>
    simp only [List.forall_mem_cons, List.not_mem_nil, false_implies, implies_true, and_true] at h
    have hodd : (s1 - s3 + s5 - s7) ^ 2 ≤ 8190 ^ 2 := sq_le_sq' (by omega) (by omega)
    have heven : (s0 - s2 + s4 - s6) ^ 2 ≤ 8190 ^ 2 := sq_le_sq' (by omega) (by omega)
    rw [sq] at hodd heven
    exact Int.toNat_le.mpr (by push_cast; linarith)
  · exact Nat.zero_le _

/-- Reversal exchanges the two sums and changes their signs (R513). -/
theorem powerOf_reverse (s0 s1 s2 s3 s4 s5 s6 s7 : Int) :
    powerOf [s7, s6, s5, s4, s3, s2, s1, s0] = powerOf [s0, s1, s2, s3, s4, s5, s6, s7] := by
  refine Int.ofNat_inj.mp ?_
  rw [powerOf_cast, powerOf_cast]
  ring

/-! ## Power samples of a stream (R510, R511) -/

theorem powerSamples_eq (src : List Byte) (k : Nat) :
    powerSamples src k = (List.range 8).map fun (i : Nat) => streamSample src (2 * (k : Int) - 6 + i) := by
  simp only [powerSamples, sampleAt_eq_streamSample]

theorem power_cast (src : List Byte) (k : Nat) :
    (power src k : Int) =
      (streamSample src (2 * k - 5) - streamSample src (2 * k - 3) + streamSample src (2 * k - 1) -
        streamSample src (2 * k + 1)) ^ 2 +
      (streamSample src (2 * k - 6) - streamSample src (2 * k - 4) + streamSample src (2 * k - 2) -
        streamSample src (2 * k)) ^ 2 := by
  have hlist : powerSamples src k =
      [streamSample src (2 * k - 6), streamSample src (2 * k - 5), streamSample src (2 * k - 4), streamSample src (2 * k - 3),
        streamSample src (2 * k - 2), streamSample src (2 * k - 1), streamSample src (2 * k), streamSample src (2 * k + 1)] := by
    rw [powerSamples_eq, show List.range 8 = [0, 1, 2, 3, 4, 5, 6, 7] from rfl]
    simp only [List.map_cons, List.map_nil]
    ring_nf
  rw [power, hlist, powerOf_cast]

theorem power_le {src : List Byte} {k : Nat} (h : legalPower src k) : power src k ≤ 134152200 := by
  refine powerOf_le fun v hv => ?_
  rw [powerSamples_eq] at hv
  obtain ⟨i, hi, rfl⟩ := List.mem_map.mp hv
  have hi : i < 8 := List.mem_range.mp hi
  exact isSample_streamSample h (by omega) (by omega)

/-! ## The operands of `PE.POWER` (R512) -/

theorem powerOperandBad_eq_none {l : List (BitVec 16)} (h : ∀ v ∈ l, isSample v.toInt) (j : Nat) :
    powerOperandBad j l = none := by
  induction l generalizing j with
  | nil => rfl
  | cons v l ih =>
    obtain ⟨hv, hl⟩ := List.forall_mem_cons.mp h
    rw [powerOperandBad, if_pos hv, ih hl]

theorem powerOperandBad_eq_some {l : List (BitVec 16)} {i : Nat} {v : BitVec 16} (hi : l[i]? = some v)
    (hv : ¬isSample v.toInt) (hbefore : ∀ w ∈ l.take i, isSample w.toInt) (j : Nat) :
    powerOperandBad j l = some (j + i, v) := by
  induction l generalizing i j with
  | nil => cases hi
  | cons u l ih =>
    cases i with
    | zero =>
      cases hi
      rw [powerOperandBad, if_neg hv, Nat.add_zero]
    | succ i =>
      obtain ⟨hu, hl⟩ := List.forall_mem_cons.mp hbefore
      rw [powerOperandBad, if_pos hu, ih hi hl, Nat.add_right_comm, Nat.add_assoc]

/-! ## How the commands end -/

section Commands

variable {s : State}

theorem scCondition_faults (h : s.ready) {lo hi : BitVec 8} (hword : 4095 < lo.toNat + 256 * hi.toNat) :
    faults s (.scCondition lo hi) .sampleRange (BitVec.ofNat 64 (lo.toNat + 256 * hi.toNat)) := by
  rw [faults, exec, execScCondition, guarded_ready h, toNat_or_shiftLeft]
  exact congrArg _ (if_pos hword)

theorem scCondition_answers (h : s.ready) {lo hi : BitVec 8} (hword : lo.toNat + 256 * hi.toNat ≤ 4095) :
    answers s (.scCondition lo hi) .ok (.bits 12 (BitVec.ofInt 12 ((lo.toNat : Int) + 256 * hi.toNat - 2048))) := by
  rw [answers, exec, execScCondition, guarded_ready h, toNat_or_shiftLeft]
  exact congrArg _ (if_neg (Nat.not_lt.mpr hword))

theorem pePower_answers (h : s.ready) {s0 s1 s2 s3 s4 s5 s6 s7 : BitVec 16}
    (hs : ∀ v ∈ [s0, s1, s2, s3, s4, s5, s6, s7], isSample v.toInt) :
    answers s (.pePower s0 s1 s2 s3 s4 s5 s6 s7) .ok
      (.bits 32 (BitVec.ofNat 32 (powerOf ([s0, s1, s2, s3, s4, s5, s6, s7].map BitVec.toInt)))) := by
  rw [answers, exec, execPePower, guarded_ready h, powerOperandBad_eq_none hs]
  rfl

theorem pePower_faults (h : s.ready) {s0 s1 s2 s3 s4 s5 s6 s7 : BitVec 16} {i : Nat} {v : BitVec 16}
    (hi : [s0, s1, s2, s3, s4, s5, s6, s7][i]? = some v) (hv : ¬isSample v.toInt)
    (hbefore : ∀ w ∈ [s0, s1, s2, s3, s4, s5, s6, s7].take i, isSample w.toInt) :
    faults s (.pePower s0 s1 s2 s3 s4 s5 s6 s7) .sampleRange (BitVec.ofNat 64 (i * 65536 + v.toNat)) := by
  rw [faults, exec, execPePower, guarded_ready h, powerOperandBad_eq_some hi hv hbefore, Nat.zero_add,
    show 65536 = 2 ^ 16 from rfl, ← shiftLeft_or_toNat]
  rfl

end Commands

end Sys2Proof.Machine

namespace Sys2Proof.Proofs

open Sys2Proof Sys2Proof.Machine

/-- Settles O24: the laws of the command's ends; the sum of squares fits its 32 bits and does not see a reversal. -/
theorem powerOfEightOperands : Obligations.PowerOfEightOperands := by
  unfold Obligations.PowerOfEightOperands
  refine ⟨fun s s0 s1 s2 s3 s4 s5 s6 s7 hready => ⟨fun hs => ?_, fun i v => pePower_faults hready⟩,
    fun s s0 s1 s2 s3 s4 s5 s6 s7 hready hs => ?_⟩
  · have hle : powerOf ([s0, s1, s2, s3, s4, s5, s6, s7].map BitVec.toInt) ≤ 134152200 :=
      powerOf_le (List.forall_mem_map.mpr hs)
    refine ⟨_, ?_, ?_, pePower_answers hready hs⟩ <;> rw [BitVec.toNat_ofNat, Nat.mod_eq_of_lt (by omega)]
    · exact powerOf_cast ..
    · exact hle
  · have hreversed : ∀ v ∈ [s7, s6, s5, s4, s3, s2, s1, s0], isSample v.toInt := fun v hv => hs v (List.mem_reverse.mp hv)
    have hpower : powerOf ([s7, s6, s5, s4, s3, s2, s1, s0].map BitVec.toInt) =
      powerOf ([s0, s1, s2, s3, s4, s5, s6, s7].map BitVec.toInt) := powerOf_reverse ..
    have hanswer := pePower_answers hready hreversed
    rw [hpower] at hanswer
    exact (pePower_answers hready hs).trans hanswer.symm

/-- Settles O25: the samples of the model are those of the stream's bytes, and the sum of squares has its bound. -/
theorem powerOfTheStream : Obligations.PowerOfTheStream := by
  unfold Obligations.PowerOfTheStream
  exact fun src k => ⟨power_cast src k, power_le, rfl⟩

/-- Settles O23: the laws of the command's two ends; the difference fits 12 bits. -/
theorem conditionCentresASample : Obligations.ConditionCentresASample := by
  unfold Obligations.ConditionCentresASample
  intro s lo hi hready
  refine ⟨fun hword => ⟨_, BitVec.toInt_ofInt_eq_self (by decide) ?_ ?_, scCondition_answers hready hword⟩,
    scCondition_faults hready⟩ <;> omega

end Sys2Proof.Proofs
end

section
/-! PROOFS. The window moves forward only (43_window.md R553, R558, 10_state.md R101), and a scan leaves what R610 to R616 say. -/

namespace Sys2Proof.Machine

/-! ## Where the left edge goes -/

/-- The left edge of `t` is that of `s` or a later one, up to the end of the power samples of `s` (R553, R558, R612). -/
structure EdgeMove (s t : State) : Prop where
  forward : s.wpos.toNat ≤ t.wpos.toNat
  reached : t.wpos.toNat ≤ max s.wpos.toNat (powerCount s.src)

namespace EdgeMove

variable {s t u : State}

theorem of_wpos_eq (h : t.wpos = s.wpos) : EdgeMove s t := ⟨(congrArg _ h).ge, h ▸ le_max_left ..⟩

theorem of_wpos_eq_ofNat {q : Nat} (h : t.wpos = BitVec.ofNat 64 q) (hq : q < 2 ^ 64) (hforward : s.wpos.toNat ≤ q)
    (hreached : q ≤ max s.wpos.toNat (powerCount s.src)) : EdgeMove s t := by
  have hpos : t.wpos.toNat = q := by rw [h, BitVec.toNat_ofNat, Nat.mod_eq_of_lt hq]
  exact ⟨hpos ▸ hforward, hpos ▸ hreached⟩

theorem trans (hst : EdgeMove s t) (hsrc : t.src = s.src) (htu : EdgeMove t u) : EdgeMove s u where
  forward := hst.forward.trans htu.forward
  reached := htu.reached.trans (max_le hst.reached (hsrc ▸ le_max_right ..))

/-- The invariant's bound on the left edge (R553) survives a move. -/
theorem position_le (h : EdgeMove s t) (hs : s.wpos.toNat ≤ powerCount s.src) : t.wpos.toNat ≤ powerCount s.src :=
  h.reached.trans (max_le hs le_rfl)

end EdgeMove

theorem advanceRun_moves (s : State) : (advanceRun s).Ends True (EdgeMove s) := by
  cases h : advanceRun s with
  | done t =>
    obtain ⟨-, hlt, hpos⟩ := advanceRun_done h
    exact .done ⟨by omega, by omega⟩
  | fault c info => exact .fault c info
  | wait => exact .wait trivial

theorem advanceByRun_moves (n : Nat) (s : State) : (advanceByRun n s).Ends True (EdgeMove s) := by
  induction n generalizing s with
  | zero => exact .done (.of_wpos_eq rfl)
  | succ n ih =>
    have hmoves := advanceRun_moves s
    rw [advanceByRun]
    cases ht : advanceRun s with
    | done t =>
      have hsrc : t.src = s.src := by rw [(advanceRun_done ht).1, take_src]
      exact (ih t).mono id fun _ h => (ht ▸ hmoves).of_done.trans hsrc h
    | fault c info => exact .fault c info
    | wait => exact .wait trivial

/-! ## What a scan finds (R610 to R616) -/

/-- The downlink format is the top five bits of byte 0 (R656). -/
theorem byte0_of_df {b : Byte} (h : (b.extractLsb' 3 5).toNat = Config.dfEs) : b.toNat / 8 = 17 := by
  revert b
  decide

/-- Byte 0 of a 14-byte frame has the downlink format 17 (R311, R608). -/
theorem byte0_of_frameSize {b : Byte} (h : frameSize b = Config.frameBytes) : b.toNat / 8 = 17 := by
  refine byte0_of_df (by_contra fun hdf => ?_)
  rw [frameSize, if_neg hdf] at h
  cases h

/-- A valid frame has 14 bytes, the downlink format 17 and the CRC 0 (R610, R650). -/
theorem examine_found {src : List Byte} {eos : Bool} {sp : Config.SkipPrev} {p : Nat} {prev : Prev} {bytes : List Byte} {t : Nat}
    (h : examine src eos sp p prev = .done (.found bytes t)) :
    bytes.length = 14 ∧ (bytes.getD 0 0#8).toNat / 8 = 17 ∧ crcBytes bytes = 0#24 := by
  obtain ⟨-, ⟨-, he⟩ | ⟨-, -, ⟨-, he⟩ | ⟨hsize, -, ⟨hcrc, he⟩ | ⟨-, he⟩⟩⟩⟩ := examine_cases h
  · cases he
  · cases he
  · cases he
    exact ⟨rfl, byte0_of_frameSize hsize, hcrc⟩
  · cases he

/-- What a scan from left edge `p` can end with: a valid frame at a full window, its timestamp below 2^63, or the end of the input
at a later edge of 64 bits. -/
inductive ScanEnd (src : List Byte) (eos : Bool) (p : Nat) : Scan → Prop
  | frame {q : Nat} {bytes : List Byte} (taken : Nat) (hpq : p ≤ q) (hfull : q + 1200 ≤ powerCount src) (hts : ¬tsOverflows q)
    (hframe : frameOk ⟨BitVec.ofNat 64 (q * Config.nsPerSample), bytes⟩) : ScanEnd src eos p (.frame q bytes taken)
  | ended {q : Nat} (prev : Prev) (taken : Nat) (hpq : p ≤ q) (hreached : q ≤ max p (powerCount src)) (hq : q < 2 ^ 64)
    (heos : eos = true) : ScanEnd src eos p (.ended q prev taken)

theorem ScanEnd.of_succ {src : List Byte} {eos : Bool} {p : Nat} {r : Scan} (h : ScanEnd src eos (p + 1) r)
    (hp : p < powerCount src) : ScanEnd src eos p r := by
  cases h with
  | frame taken hpq hfull hts hframe => exact .frame taken (by omega) hfull hts hframe
  | ended prev taken hpq hreached hq heos => exact .ended prev taken (by omega) (by omega) hq heos

/-- The timestamp of a frame that does not overflow is its position times 100 (R613). -/
theorem toNat_timestamp {p : Nat} (h : ¬tsOverflows p) :
    (BitVec.ofNat 64 (p * Config.nsPerSample)).toNat = p * Config.nsPerSample := by
  rw [BitVec.toNat_ofNat]
  exact Nat.mod_eq_of_lt (by omega)

/-- The left edge after a frame has 64 bits (R610, R101). -/
theorem add_skip_lt {p : Nat} (h : ¬tsOverflows p) : p + Config.skip < 2 ^ 64 := by
  unfold tsOverflows Config.nsPerSample at h
  unfold Config.skip
  omega

theorem scan_scanEnd (src : List Byte) (eos : Bool) (sp : Config.SkipPrev) {n p : Nat} (hn : n = fullPositions src p)
    (hp : p < 2 ^ 64) (prev : Prev) (taken : Nat) : (scan src eos sp n p prev taken).Ends True (ScanEnd src eos p) := by
  induction n generalizing p prev taken with
  | zero =>
    cases eos
    · exact .wait trivial
    · exact .done (.ended prev taken le_rfl (le_max_left ..) hp rfl)
  | succ n ih =>
    have hfull : p + 1200 ≤ powerCount src := by
      by_contra hlt
      rw [(fullPositions_eq_zero_iff src p).mpr (by omega)] at hn
      omega
    cases he : examine src eos sp p prev with
    | done e =>
      cases e with
      | found bytes t =>
        rw [scan_found he]
        split
        · exact .fault _ _
        · next hts =>
          obtain ⟨hlength, hdf, hcrc⟩ := examine_found he
          refine .done (.frame _ le_rfl hfull hts ⟨?_, hlength, hdf, hcrc⟩)
          rw [toNat_timestamp hts]
          omega
      | rejected cur t =>
        rw [scan_rejected he]
        split
        · exact .fault _ _
        · next hlast =>
          exact (ih (fullPositions_succ hn.symm).symm (by omega) _ _).mono id fun _ h => h.of_succ (by omega)
    | fault c info =>
      rw [scan, he]
      exact .fault c info
    | wait =>
      rw [scan, he]
      exact .wait trivial

/-- What `DEM.NEXT` leaves: a left edge that does not move back, `D.state = done` only after end-of-stream, and in the frame
register the frame of before or a valid one (R610, R612, R614, R140). -/
structure DemEnd (s t : State) : Prop where
  moves : EdgeMove s t
  done : t.dstate = .done → s.dstate = .done ∨ s.eos = true
  frame : ∀ f, t.frame = some f → s.frame = some f ∨ frameOk f

theorem demRun_demEnd (s : State) : (demRun s).Ends True fun a => DemEnd s a.1 := by
  have hscan := scan_scanEnd s.src s.eos s.cfg.skipPrev rfl s.wpos.isLt s.dprev s.taken
  unfold demRun
  split
  · exact .done ⟨.of_wpos_eq rfl, .inl, fun _ => .inl⟩
  · split
    · exact .fault _ _
    · exact .wait trivial
    · next hended =>
      cases (hended ▸ hscan).of_done with
      | ended prev taken hpq hreached hq heos =>
        exact .done ⟨.of_wpos_eq_ofNat rfl hq hpq hreached, fun _ => .inr heos, fun _ => .inl⟩
    · next hframe =>
      cases (hframe ▸ hscan).of_done with
      | frame taken hpq hfull hts hok =>
        exact .done ⟨.of_wpos_eq_ofNat rfl (add_skip_lt hts) (hpq.trans (Nat.le_add_right ..)) (le_max_of_le_right hfull), .inl,
          fun f hf => .inr (Option.some.inj hf ▸ hok)⟩

/-! ## Every command but `BLK.RESET` moves the left edge forward -/

section Runs

variable {W : Prop} {P : State → Prop} (hrespond : ∀ t o v, P t → P (t.respond o v))

include hrespond

/-! What a response does not touch holds after the three ends of a run. -/

theorem respondEmpty_ends_of {r : Run State} (h : r.Ends W P) : r.respondEmpty.Ends W P := by
  cases h with
  | done h => exact .done (hrespond _ _ _ h)
  | fault c info => exact .fault c info
  | wait h => exact .wait h

theorem demRespond_ends_of {r : Run (State × Option Frame)} (h : r.Ends W fun a => P a.1) : (demRespond r).Ends W P := by
  cases h with
  | @done a h =>
    obtain ⟨t, _ | f⟩ := a
    · exact .done (hrespond _ _ _ h)
    · exact .done (hrespond _ _ _ h)
  | fault c info => exact .fault c info
  | wait h => exact .wait h

theorem pipeRun_ends_of (htrack : ∀ t msg m, checkMsg msg = .done m → P t → P (trackMessage t m).1)
    {r : Run (State × Option Frame)} (h : r.Ends W fun a => P a.1) : (pipeRun r).Ends W P := by
  cases h with
  | @done a h =>
    obtain ⟨t, _ | f⟩ := a
    · exact .done (hrespond _ _ _ h)
    · simp only [pipeRun]
      split
      · exact .done (hrespond _ _ _ h)
      · next m _ =>
        cases hm : checkMsg m.toOperand with
        | done checked => exact .done (hrespond _ _ _ (htrack _ _ _ hm h))
        | fault c info => exact .fault c info
        | wait => exact (hm ▸ checkMsg_ends m.toOperand).of_wait.elim
  | fault c info => exact .fault c info
  | wait h => exact .wait h

end Runs

theorem EdgeMove.respond {s : State} (t : State) (o : RespOutcome) (v : Value) (h : EdgeMove s t) : EdgeMove s (t.respond o v) :=
  ⟨h.forward, h.reached⟩

/-- A command that reads the stream moves the left edge by its result alone. -/
theorem EdgeMove.of_guarded_settle {s u : State} {i : Instr} {r : Run State} (h : guarded s (s.settle i r) = .next u)
    (hr : r.Ends True (EdgeMove s)) : EdgeMove s u := by
  obtain ⟨-, -, rfl⟩ | ⟨-, rfl⟩ := guarded_cases h
  · exact .of_wpos_eq rfl
  · cases hr with
    | done hmoves => exact hmoves
    | fault c info => exact .of_wpos_eq rfl
    | wait _ => exact .of_wpos_eq rfl

/-- The four commands that write `W.pos` move it forward, and the others keep it (R558). -/
theorem exec_moves {i : Instr} {s t : State} (hreset : i ≠ .blkReset) (h : exec i s = .next t) : EdgeMove s t := by
  have hdem : (demRun s).Ends True fun a => EdgeMove s a.1 := (demRun_demEnd s).mono id fun _ h => h.moves
  by_cases hmoves : movesWindow i = true
  · cases i with
    | winAdvance => exact .of_guarded_settle h (respondEmpty_ends_of EdgeMove.respond (advanceRun_moves s))
    | winAdvanceby n => exact .of_guarded_settle h (respondEmpty_ends_of EdgeMove.respond (advanceByRun_moves _ s))
    | demNext => exact .of_guarded_settle h (demRespond_ends_of EdgeMove.respond hdem)
    | pipeStep =>
      exact .of_guarded_settle h (pipeRun_ends_of EdgeMove.respond (fun _ _ _ _ ht => ⟨ht.forward, ht.reached⟩) hdem)
    | blkReset => exact absurd rfl hreset
    | _ => cases hmoves
  · exact .of_wpos_eq ((exec_keeps hreset h).window (by simpa using hmoves)).1

end Sys2Proof.Machine

namespace Sys2Proof.Proofs

open Sys2Proof Sys2Proof.Machine

/-- Settles O29: an advance moves the left edge by one and faults at the last edge, a scan ends at or after its left edge, and no
other command writes `W.pos`. -/
theorem theWindowNeverMovesBack : Obligations.TheWindowNeverMovesBack := by
  unfold Obligations.TheWindowNeverMovesBack
  exact fun i s t hreset h => (exec_moves hreset h).forward

end Sys2Proof.Proofs
end

section
/-! PROOFS. The decoder gives well-formed commands (30_encoding.md R300, R304). -/

namespace Sys2Proof

theorem takeSeq_length_le {r : List Byte} {p : List Byte × List Byte} (h : takeSeq r = some p) :
    p.1.length ≤ Config.maxSeq := by
  cases r with
  | nil => cases h
  | cons n r =>
    rw [takeSeq] at h
    split at h
    · cases h
      have hn : n.toNat < 256 := n.isLt
      exact (List.length_take_le ..).trans (by unfold Config.maxSeq; omega)
    · cases h

theorem decodeMsg_wellFormed {r : List Byte} {msg : MsgOperand} (h : decodeMsg r = some msg) : msg.wellFormed = true := by
  cases r with
  | nil => cases h
  | cons tag r =>
    rw [decodeMsg] at h
    split at h
    · simp only [Option.bind_eq_bind, Option.bind_eq_some_iff] at h
      obtain ⟨_, -, _, -, _, -, ⟨callSign, _⟩, hseq, h⟩ := h
      cases h
      exact decide_eq_true (takeSeq_length_le hseq)
    · split at h
      · simp only [Option.bind_eq_bind, Option.bind_eq_some_iff] at h
        obtain ⟨_, -, _, -, _, -, _, -, _, -, h⟩ := h
        cases h
        rfl
      · split at h
        · simp only [Option.bind_eq_bind, Option.bind_eq_some_iff] at h
          obtain ⟨_, -, _, -, _, -, _, -, h⟩ := h
          cases h
          rfl
        · next h1 h2 h3 =>
          cases h
          exact decide_eq_true ⟨h1, h2, h3⟩

theorem decode_wellFormed {command : List Byte} {i : Instr} (h : decode command = .ok i) : i.wellFormed = true := by
  cases command with
  | nil => cases h
  | cons op r =>
    rw [decode] at h
    split at h
    · cases h
    · next operands hop =>
      split at h
      · cases h
      · next j hr =>
        cases h
        unfold operandsOf at hop
        split at hop <;> cases hop
        case h_3 => -- `BS.RANGE`
          simp only [Option.bind_eq_bind, Option.bind_eq_some_iff] at hr
          obtain ⟨⟨seq, _⟩, hseq, _, -, _, -, hi⟩ := hr
          cases hi
          exact decide_eq_true (takeSeq_length_le hseq)
        case h_4 | h_5 => -- `CRC.COMPUTE`, `CRC.CHECK`
          obtain ⟨p, hseq, rfl⟩ := Option.map_eq_some_iff.mp hr
          exact decide_eq_true (takeSeq_length_le hseq)
        case h_16 => -- `FRM.INJECT`
          simp only [Option.bind_eq_bind, Option.bind_eq_some_iff, Option.ite_none_right_eq_some] at hr
          obtain ⟨_, -, hle, hi⟩ := hr
          cases hi
          exact decide_eq_true (List.length_take_of_le hle)
        case h_29 => -- `TRK.UPDATE`
          obtain ⟨msg, hmsg, rfl⟩ := Option.map_eq_some_iff.mp hr
          exact decodeMsg_wellFormed hmsg
        all_goals
          simp only [Option.bind_eq_bind, Option.bind_eq_some_iff, Option.map_eq_some_iff] at hr
          grind [Instr.wellFormed]

end Sys2Proof
end

section
/-! PROOFS. The tracker writes well-formed entries (10_state.md R145, R151, 48_cpr.md R814, 49_tracker.md R850 to R857). -/

namespace Sys2Proof.Machine

/-- What holds of a message that passed the checks of R857 (R145). -/
def messageOk : Message → Prop
  | .ident ts _ _ callSign => ts.toNat < 2 ^ 63 ∧ callSign.length ≤ 8 ∧ callSign.all callSignChar = true
  | .position p => p.ts.toNat < 2 ^ 63 ∧ f64IsNaN p.altitudeM = false
  | .velocity ts _ speedMps trackRad => ts.toNat < 2 ^ 63 ∧ f64NonNeg speedMps = true ∧ f64IsAngle trackRad = true

theorem messageOk.ts_small {m : Message} (h : messageOk m) : m.ts.toNat < 2 ^ 63 := by
  cases m <;> exact h.1

/-- A timestamp that is not negative is below 2^63 (R21). -/
theorem ts_small_of_not_negative {ts : Ts} (h : ¬tsNegative ts = true) : ts.toNat < 2 ^ 63 := by
  simpa [tsNegative, BitVec.msb_eq_decide] using h

theorem checkMsg_messageOk {msg : MsgOperand} {m : Message} (h : checkMsg msg = .done m) : messageOk m := by
  cases msg with
  | badTag tag => cases h
  | ident ts icao category callSign =>
    simp only [checkMsg] at h
    split at h
    · cases h
    · next hts =>
      split at h
      · cases h
      · next hlength =>
        split at h
        · next hchars =>
          cases h
          exact ⟨ts_small_of_not_negative hts, Nat.not_lt.mp hlength, hchars⟩
        · cases h
  | position ts icao altitudeM parity x y =>
    simp only [checkMsg] at h
    split at h
    · cases h
    · next hts =>
      split at h
      · cases h
      · split at h
        · cases h
        · next hnan =>
          cases h
          exact ⟨ts_small_of_not_negative hts, by simpa using hnan⟩
  | velocity ts icao speedMps trackRad =>
    simp only [checkMsg] at h
    split at h
    · cases h
    · next hts =>
      split at h
      · cases h
      · next hspeed =>
        split at h
        · cases h
        · next htrack =>
          cases h
          exact ⟨ts_small_of_not_negative hts, by simpa using hspeed, by simpa using htrack⟩

/-- A merged latitude is at most a quarter turn (R814). -/
theorem cprMerge_lat_le {o : Config.Options} {x0 y0 x1 y1 : BitVec 17} {recent : Parity} {geo : GeoPos}
    (h : cprMerge o x0 y0 x1 y1 recent = .position geo) : geo.latT32.toInt.natAbs ≤ 2 ^ 30 := by
  simp only [cprMerge] at h
  split_ifs at h with hzone hlat
  cases h
  dsimp only
  rw [BitVec.toInt_ofInt_eq_self (by decide) (by omega) (by omega)]
  omega

theorem mergePair_lat_le {o : Config.Options} {p other : PositionMsg} {geo : GeoPos} (h : mergePair o p other = .position geo) :
    geo.latT32.toInt.natAbs ≤ 2 ^ 30 := by
  unfold mergePair at h
  split at h
  · exact cprMerge_lat_le h
  · exact cprMerge_lat_le h

theorem entryOk_fresh (a : Icao) {ts : Ts} (h : ts.toNat < 2 ^ 63) : entryOk a (AircraftState.fresh ts) where
  lastSeen := h
  callSign := nofun
  position := nofun
  speed := nofun
  track := nofun
  slotEven := nofun
  slotOdd := nofun

theorem entryOk.store {a : AircraftState} {p : PositionMsg} (h : entryOk p.icao a) (hp : messageOk (.position p)) :
    entryOk p.icao (a.store p) := by
  unfold AircraftState.store
  split
  · next hparity => exact { h with slotEven := fun q hq => Option.some.inj hq ▸ ⟨hp.1, rfl, hparity, hp.2⟩ }
  · next hparity => exact { h with slotOdd := fun q hq => Option.some.inj hq ▸ ⟨hp.1, rfl, hparity, hp.2⟩ }

theorem entryOk.positionUpdate {a : AircraftState} {p : PositionMsg} (o : Config.Options) (h : entryOk p.icao a)
    (hp : messageOk (.position p)) : entryOk p.icao (positionUpdate o a p).1 := by
  have hstored := h.store hp
  unfold Machine.positionUpdate
  dsimp only
  split
  · exact hstored
  · split
    · exact hstored
    · next hgeo =>
      split
      · exact hstored
      · exact { hstored with position := fun g hg => Option.some.inj hg ▸ mergePair_lat_le hgeo }

theorem entryOk.applyMessage {a : AircraftState} {m : Message} (o : Config.Options) (h : entryOk m.icao a) (hm : messageOk m) :
    entryOk m.icao (applyMessage o a m).1 := by
  cases m with
  | ident ts icao category callSign => exact { h with callSign := fun c hc => Option.some.inj hc ▸ hm.2 }
  | position p => exact h.positionUpdate o hm
  | velocity ts icao speedMps trackRad =>
    exact { h with
      speed := fun v hv => Option.some.inj hv ▸ hm.2.1
      track := fun v hv => Option.some.inj hv ▸ hm.2.2 }

theorem entryOk_entryFor {t : List (Icao × AircraftState)} {m : Message} (htable : tableWf t)
    (hentries : ∀ e ∈ t, entryOk e.1 e.2) (hm : messageOk m) : entryOk m.icao (entryFor t m) := by
  unfold entryFor
  split
  · next a ha => exact { hentries _ ((tableGet_eq_some_iff htable _ _).mp ha) with lastSeen := hm.ts_small }
  · exact entryOk_fresh _ hm.ts_small

end Sys2Proof.Machine
end

section
/-! PROOFS. The invariant of Safety.lean survives every step (10_state.md R110, R140 to R151, 43_window.md R553, 44_demodulator.md
R612, R614, 60_exceptions.md R906). -/

namespace Sys2Proof.Machine

/-! ## The shared operations -/

/-- A fault has one of the 15 causes (R906). -/
theorem cause_code_legal (c : Cause) : 1 ≤ c.code.toNat ∧ c.code.toNat ≤ 15 := by
  cases c <;> decide

namespace Inv

variable {s t : State} {i : Instr}

theorem respond (h : Inv s) (o : RespOutcome) (v : Value) : Inv (s.respond o v) := { h with }

theorem respondRefused (h : Inv s) : Inv s.respondRefused := { h with }

theorem raiseFault (h : Inv s) (hp : s.pending = none) (c : Cause) (info : BitVec 64) : Inv (s.raiseFault c info) :=
  { h with
    noFault := nofun
    causeLegal := fun _ => cause_code_legal c
    waiting := by simp [hp] }

theorem hold (h : Inv s) (hf : s.faulted = false) (hi : readsStream i = true) (he : s.eos = false) : Inv (s.hold i) :=
  { h with waiting := fun _ hj => Option.some.inj hj ▸ ⟨hi, he, hf⟩ }

theorem resetAll (s : State) : Inv s.resetAll :=
  { Proofs.resetMeetsTheInvariant with }

theorem settle (h : Inv s) (hready : s.ready) (hp : s.pending = none) {r : Run State}
    (hr : r.Ends (readsStream i = true ∧ s.eos = false) Inv) : Inv (s.settle i r) := by
  cases hr with
  | done ht => exact ht
  | fault c info => exact h.raiseFault hp c info
  | wait hw => exact h.hold hready.1 hw.1 hw.2

theorem settle_of_reads (h : Inv s) (hready : s.ready) (hp : s.pending = none) (hi : readsStream i = true) {r : Run State}
    (hr : r.Ends (s.eos = false) Inv) : Inv (s.settle i r) := h.settle hready hp (hr.mono (⟨hi, ·⟩) fun _ ht => ht)

/-- The checks of R906 and R907 in front of a command. -/
theorem of_guarded (h : Inv s) {u : State} (hu : guarded s t = .next u) (ht : s.ready → Inv t) : Inv u := by
  obtain ⟨-, -, rfl⟩ | ⟨hready, rfl⟩ := guarded_cases hu
  · exact h.respondRefused
  · exact ht hready

theorem dropInbox (h : Inv s) (rest : List HostAct) : Inv { s with inbox := rest } := { h with }

/-- The wait is lifted. -/
theorem lift (h : Inv s) : Inv { s with pending := none } := { h with waiting := nofun }

/-- Later bytes make no fewer power samples. -/
theorem deliver (h : Inv s) (bs : List Byte) : Inv (s.deliver bs) := by
  rw [deliver_eq]
  refine { h with position := h.position.trans ?_ }
  dsimp only
  split
  · exact le_rfl
  · exact powerCount_append_le ..

theorem signalEos (h : Inv s) (hp : s.pending = none) : Inv s.signalEos :=
  { h with
    doneEos := fun _ => rfl
    waiting := by simp [hp] }

end Inv

/-! ## The commands that write what the invariant speaks of -/

theorem Run.Ends.and {α : Type} {W V : Prop} {P Q : α → Prop} {r : Run α} (hP : r.Ends W P) (hQ : r.Ends V Q) :
    r.Ends W fun a => P a ∧ Q a := by
  cases hP with
  | done h => exact .done ⟨h, hQ.of_done⟩
  | fault c info => exact .fault c info
  | wait h => exact .wait h

namespace Inv

variable {s t : State} {i : Instr}

theorem windowWrite (h : Inv s) (hw : WindowWrite s t) (hm : EdgeMove s t) : Inv t := by
  cases hw
  exact { h with position := hm.position_le h.position }

theorem demodWrite (h : Inv s) (hw : DemodWrite s t) (hd : DemEnd s t) : Inv t := by
  cases hw
  exact { h with
    position := hd.moves.position_le h.position
    doneEos := fun hdone => (hd.done hdone).elim h.doneEos id
    frame := fun f hf => (hd.frame f hf).elim (h.frame f) id }

theorem advance (h : Inv s) : (advanceRun s).Ends (s.eos = false) Inv :=
  ((advanceRun_ends s).and ((advanceRun_writes s).and (advanceRun_moves s))).mono id
    fun _ ⟨_, hw, hm⟩ => h.windowWrite hw hm

theorem advanceBy (h : Inv s) (n : Nat) : (advanceByRun n s).Ends (s.eos = false) Inv :=
  ((advanceByRun_ends n s).and ((advanceByRun_writes n s).and (advanceByRun_moves n s))).mono id
    fun _ ⟨_, hw, hm⟩ => h.windowWrite hw hm

theorem demRun (h : Inv s) : (demRun s).Ends (s.eos = false) fun a => Inv a.1 :=
  ((demRun_ends s).and ((demRun_writes s).and (demRun_demEnd s))).mono id fun _ ⟨_, hw, hd⟩ => h.demodWrite hw hd

theorem trackMessage (h : Inv s) {m : Message} (hm : messageOk m) : Inv (trackMessage s m).1 :=
  { h with
    table := tableWf_tableSet h.table ..
    entries := fun e he => (mem_tableSet he).elim
      (fun heq => heq ▸ (entryOk_entryFor h.table h.entries hm).applyMessage s.cfg hm) (h.entries e)
    lastNone := nofun }

theorem inject (h : Inv s) {ts : Ts} {frame : List Byte} (hlength : frame.length = Config.frameBytes)
    (ht : execFrmInject ts frame s = .next t) (hp : s.pending = none) : Inv t := by
  refine h.of_guarded ht fun _ => ?_
  split
  · exact h.raiseFault hp _ _
  · next hts =>
    split
    · exact h.respond _ _
    · next hdf =>
      split
      · exact h.respond _ _
      · next hcrc =>
        have hframe : frameOk ⟨ts, frame⟩ :=
          ⟨ts_small_of_not_negative hts, hlength, byte0_of_df (not_not.mp hdf), not_not.mp hcrc⟩
        exact { h with frame := fun f hf => Option.some.inj hf ▸ hframe }

theorem update (h : Inv s) {msg : MsgOperand} (ht : execTrkUpdate msg s = .next t) (hp : s.pending = none) : Inv t := by
  refine h.of_guarded ht fun hready => h.settle hready hp ?_
  cases hm : checkMsg msg with
  | done m => exact .done ((h.trackMessage (checkMsg_messageOk hm)).respond _ _)
  | fault c info => exact .fault c info
  | wait => exact (hm ▸ checkMsg_ends msg).of_wait.elim

theorem purge (h : Inv s) {now : Ts} (ht : execTrkPurge now s = .next t) (hp : s.pending = none) : Inv t := by
  refine h.of_guarded ht fun _ => ?_
  split
  · exact h.raiseFault hp _ _
  · exact { h with
      table := tableWf_filter h.table _
      entries := fun e he => h.entries e (List.mem_of_mem_filter he)
      lastNone := fun hlast => by simp [h.lastNone hlast] }

/-- A command that writes neither the window, the demodulator, the frame register nor the table. -/
theorem of_keeps (h : Inv s) (ht : exec i s = .next t) (hp : s.pending = none) (hstatus : i ≠ .blkStatus)
    (hmoves : movesWindow i = false) (hdstate : writesDState i = false) (hframe : writesFrame i = false)
    (htable : writesTable i = false) : Inv t := by
  have hreset : i ≠ .blkReset := by
    rintro rfl
    cases hmoves
  have hkeeps := exec_keeps hreset ht
  obtain ⟨u, hu, hend⟩ := exec_ends hstatus hreset s
  rw [hu] at ht
  obtain ⟨-, -, rfl⟩ | ⟨hready, rfl⟩ := guarded_cases ht
  · exact h.respondRefused
  · cases hend with
    | fault c info => exact h.raiseFault hp c info
    | hold hi he => exact h.hold hready.1 hi he
    | answer o v hpending =>
      obtain ⟨hfaulted, hcause, hinfo⟩ := hkeeps.faultRegisters (by simp)
      obtain ⟨hsrc, heos⟩ := hkeeps.stream
      exact {
        noFault := by rw [hfaulted, hcause, hinfo]; exact h.noFault
        causeLegal := by rw [hfaulted, hcause]; exact h.causeLegal
        frame := by rw [hkeeps.frame hframe]; exact h.frame
        table := by rw [hkeeps.table htable]; exact h.table
        entries := by rw [hkeeps.table htable]; exact h.entries
        lastNone := by rw [hkeeps.table htable, hkeeps.lastNs (.inl htable)]; exact h.lastNone
        position := by rw [(hkeeps.window hmoves).1, hsrc]; exact h.position
        doneEos := by rw [hkeeps.dstate hdstate, heos]; exact h.doneEos
        waiting := by rw [respond_pending, hpending, hp]; nofun }

end Inv

/-- Every well-formed command keeps the invariant in a block in which no command waits. -/
theorem exec_inv {i : Instr} {s t : State} (h : Inv s) (hp : s.pending = none) (hi : i.wellFormed = true)
    (ht : exec i s = .next t) : Inv t := by
  have hrespond : ∀ (u : State) o v, Inv u → Inv (u.respond o v) := fun _ o v hu => hu.respond o v
  cases i with
  | winAdvance =>
    exact h.of_guarded ht fun hready => h.settle_of_reads hready hp rfl (respondEmpty_ends_of hrespond h.advance)
  | winAdvanceby n =>
    exact h.of_guarded ht fun hready => h.settle_of_reads hready hp rfl (respondEmpty_ends_of hrespond (h.advanceBy _))
  | demNext =>
    exact h.of_guarded ht fun hready => h.settle_of_reads hready hp rfl (demRespond_ends_of hrespond h.demRun)
  | pipeStep =>
    exact h.of_guarded ht fun hready => h.settle_of_reads hready hp rfl
      (pipeRun_ends_of hrespond (fun _ _ _ hm hu => hu.trackMessage (checkMsg_messageOk hm)) h.demRun)
  | frmInject ts frame => exact h.inject (of_decide_eq_true hi) ht hp
  | trkUpdate msg => exact h.update ht hp
  | trkPurge now => exact h.purge ht hp
  | blkReset =>
    obtain ⟨-, rfl⟩ := unguarded_cases ht
    exact (Inv.resetAll s).respond _ _
  | blkStatus =>
    obtain ⟨-, rfl⟩ := unguarded_cases ht
    exact h.respond _ _
  | _ => exact h.of_keeps ht hp nofun rfl rfl rfl rfl

/-! ## The step -/

/-- What the host's action leads to: a state with the invariant, or a well-formed command in one in which no command waits. -/
def fetchedOk : Fetched → Prop
  | .settle t => Inv t
  | .run i t => Inv t ∧ t.pending = none ∧ i.wellFormed = true
  | .stop _ => True
  | .refuse _ => True

theorem wellFormed_of_readsStream {i : Instr} (h : readsStream i = true) : i.wellFormed = true := by
  cases i with
  | winGet idx => rfl
  | winAdvance => rfl
  | winAdvanceby n => rfl
  | winIsfull => rfl
  | demNext => rfl
  | pipeStep => rfl
  | _ => cases h

theorem fetchCommand_ok {s : State} (h : Inv s) (hp : s.pending = none) (command : List Byte) :
    fetchedOk (fetchCommand s command) := by
  unfold fetchCommand
  split
  · next hdecode => exact ⟨h, hp, decode_wellFormed hdecode⟩
  · unfold State.illegalCommand
    split
    · exact h.respondRefused
    · exact h.raiseFault hp _ _
  · trivial
  · trivial

theorem fetchIdle_ok {s : State} (h : Inv s) (hp : s.pending = none) (act : HostAct) : fetchedOk (fetchIdle s act) := by
  cases act with
  | issue command => exact fetchCommand_ok h hp command
  | deliver bs => exact h.deliver bs
  | eos => exact h.signalEos hp
  | ioError => exact h

theorem fetchWaiting_ok {s : State} {i : Instr} (h : Inv s) (hp : s.pending = some i) (act : HostAct) :
    fetchedOk (fetchWaiting s i act) := by
  have hi : i.wellFormed = true := wellFormed_of_readsStream (h.waiting i hp).1
  cases act with
  | issue command => trivial
  | deliver bs => exact ⟨h.lift.deliver bs, deliver_pending .., hi⟩
  | eos => exact ⟨h.lift.signalEos rfl, rfl, hi⟩
  | ioError => exact h.lift.raiseFault rfl _ _

theorem fetch_ok {s : State} (h : Inv s) : fetchedOk (fetch s) := by
  unfold fetch
  split
  · trivial
  · unfold fetchNext
    split
    · exact h
    · next act rest _ =>
      split
      · next hp => exact fetchIdle_ok (h.dropInbox rest) hp act
      · next hp => exact fetchWaiting_ok (h.dropInbox rest) hp act

end Sys2Proof.Machine

namespace Sys2Proof.Proofs

open Sys2Proof Sys2Proof.Machine

/-- Settles O16: the host's action keeps the invariant, and so does the command it lets run, whose word is well formed. -/
theorem everyStepKeepsTheInvariant : Obligations.EveryStepKeepsTheInvariant := by
  unfold Obligations.EveryStepKeepsTheInvariant
  intro s t h ht
  have hfetched := fetch_ok h
  unfold step at ht
  cases hfetch : fetch s with
  | settle u =>
    rw [hfetch] at ht hfetched
    cases ht
    exact hfetched
  | run i u =>
    rw [hfetch] at ht hfetched
    obtain ⟨hu, hp, hi⟩ := hfetched
    exact exec_inv hu hp hi ht
  | stop r =>
    rw [hfetch] at ht
    cases ht
  | refuse r =>
    rw [hfetch] at ht
    cases ht

end Sys2Proof.Proofs
end

section
/-! PROOFS. The window's commands: 43_window.md R551 to R557. A command asks `need` for one power sample after another, and
`need` has one law for each of its answers. -/

namespace Sys2Proof.Machine

/-! ## The raw words of a power sample (R501, R502) -/

/-- A raw word as the statements write it. -/
theorem rawWord_eq_getD (src : List Byte) (n : Nat) :
    rawWord src n = (src.getD (2 * n) 0#8).toNat + 256 * (src.getD (2 * n + 1) 0#8).toNat := rawWord_eq src n

theorem badSample_of_legal {src : List Byte} {k : Nat} (h : legalPower src k) : badSample src k = none := by
  refine List.findSome?_eq_none_iff.mpr fun i hi => if_neg fun ⟨hstart, hbad⟩ => ?_
  have hi : i < 8 := List.mem_range.mp hi
  have hword := h (2 * k + i - 6) (by omega) (by omega)
  rw [← rawWord_eq_getD] at hword
  exact absurd hbad (Nat.not_lt.mpr hword)

/-- A search through an initial segment of the numbers ends at the first index that answers. -/
theorem findSome?_range_eq_some {α : Type} {f : Nat → Option α} {n j : Nat} {a : α} (hj : j < n)
    (hbefore : ∀ i, i < j → f i = none) (ha : f j = some a) : (List.range n).findSome? f = some a := by
  obtain ⟨r, rfl⟩ : ∃ r, n = j + (r + 1) := ⟨n - j - 1, by omega⟩
  have hnone : (List.range j).findSome? f = none :=
    List.findSome?_eq_none_iff.mpr fun i hi => hbefore i (List.mem_range.mp hi)
  rw [List.range_add, List.findSome?_append, hnone, List.range_succ_eq_map]
  simp [ha]

theorem badSample_of_firstIllegal {src : List Byte} {k n u : Nat} (h : firstIllegal src k n u) :
    badSample src k = some n ∧ rawWord src n = u := by
  obtain ⟨hlo, hhi, hu, hbad, hfirst⟩ := h
  rw [← rawWord_eq_getD] at hu
  refine ⟨findSome?_range_eq_some (j := n + 6 - 2 * k) (by omega) (fun i hi => if_neg fun ⟨hstart, hword⟩ => ?_) ?_, hu.symm⟩
  · have hindex : 2 * k + (n + 6 - 2 * k) - 6 = n := by omega
    rw [hindex]
    exact if_pos ⟨by omega, hu ▸ hbad⟩
  · have hlegal := hfirst (2 * k + i - 6) (by omega) (by omega)
    rw [← rawWord_eq_getD] at hlegal
    exact absurd hword (Nat.not_lt.mpr hlegal)

/-! ## The four answers of `need` (R502, R557) -/

section Need

variable {s : State} {k : Nat}

theorem needRun_of_legal (hk : k < powerCount s.src) (h : legalPower s.src k) : s.needRun k = .done (power s.src k) := by
  rw [State.needRun, need_value hk (badSample_of_legal h), Need.run]

theorem needRun_of_firstIllegal {n u : Nat} (hk : k < powerCount s.src) (h : firstIllegal s.src k n u) :
    s.needRun k = .fault .sampleRange (BitVec.ofNat 64 (n * 65536 + u)) := by
  obtain ⟨hbad, hword⟩ := badSample_of_firstIllegal h
  have hlt : u < 2 ^ 16 := by
    rw [← hword, rawWord_eq_getD]
    omega
  rw [State.needRun, need_bad hk hbad, hword, Need.run, ← Nat.shiftLeft_add_eq_or_of_lt hlt, Nat.shiftLeft_eq]

theorem needRun_of_ended (hk : powerCount s.src ≤ k) (h : s.eos = true) :
    s.needRun k = .fault .winPastEnd (BitVec.ofNat 64 k) := by
  rw [State.needRun, h, need_absent hk, Need.run]

theorem needRun_wpos_of_ended (hk : powerCount s.src ≤ s.wpos.toNat) (h : s.eos = true) :
    s.needRun s.wpos.toNat = .fault .winPastEnd s.wpos := by
  rw [needRun_of_ended hk h, BitVec.ofNat_toNat, BitVec.setWidth_eq]

theorem needRun_of_not_ended (hk : powerCount s.src ≤ k) (h : s.eos = false) : s.needRun k = .wait := by
  rw [State.needRun, h, need_wait hk, Need.run]

end Need

/-! ## `WIN.GET` (R552) -/

section Get

variable {s : State} {i : BitVec 16} {c : Cause} {info : BitVec 64}

theorem winGet_faults_index (h : s.ready) (hi : 1200 ≤ i.toNat) : faults s (.winGet i) .winIndex (i.setWidth 64) := by
  rw [faults, exec, execWinGet, guarded_ready h]
  exact congrArg _ (if_pos (Nat.not_lt.mpr hi))

/-- Behind its index check the command ends as the power sample it asks for. -/
theorem exec_winGet (h : s.ready) (hi : i.toNat < 1200) :
    exec (.winGet i) s = .next (s.settle (.winGet i) (winGetRun i.toNat s)) := by
  rw [exec, execWinGet, guarded_ready h]
  exact congrArg _ (if_neg (not_not.mpr hi))

theorem winGet_answers (h : s.ready) (hi : i.toNat < 1200) {v : Nat} (hv : s.needRun (s.wpos.toNat + i.toNat) = .done v) :
    exec (.winGet i) s =
      .next ((s.take (s.wpos.toNat + i.toNat)).respond .ok (.bits 32 (BitVec.ofNat 32 v))) := by
  rw [exec_winGet h hi, winGetRun, hv]
  rfl

theorem winGet_faults (h : s.ready) (hi : i.toNat < 1200) (hv : s.needRun (s.wpos.toNat + i.toNat) = .fault c info) :
    faults s (.winGet i) c info := by
  rw [faults, exec_winGet h hi, winGetRun, hv]
  rfl

theorem winGet_waits (h : s.ready) (hi : i.toNat < 1200) (hv : s.needRun (s.wpos.toNat + i.toNat) = .wait) :
    waits s (.winGet i) := by
  rw [waits, exec_winGet h hi, winGetRun, hv]
  rfl

end Get

/-! ## `WIN.ADVANCE` and `WIN.ADVANCEBY` (R553, R554) -/

/-- The state after `m` advances over samples that are there (R553, R554). -/
def State.advanced (s : State) : Nat → State
  | 0 => s
  | m + 1 =>
    { s with
      wpos := s.wpos + BitVec.ofNat 64 (m + 1)
      dprev := .stale
      taken := max s.taken (s.wpos.toNat + m + 1) }

section Advanced

variable (s : State) (m : Nat)

@[simp] theorem advanced_zero : s.advanced 0 = s := rfl

theorem advanced_of_pos (hm : 0 < m) :
    s.advanced m =
      { s with wpos := s.wpos + BitVec.ofNat 64 m, dprev := .stale, taken := max s.taken (s.wpos.toNat + m) } := by
  cases m with
  | zero => exact absurd hm (Nat.lt_irrefl 0)
  | succ m => rfl

@[simp] theorem advanced_src : (s.advanced m).src = s.src := by
  cases m <;> rfl

@[simp] theorem advanced_eos : (s.advanced m).eos = s.eos := by
  cases m <;> rfl

@[simp] theorem advanced_wpos : (s.advanced m).wpos = s.wpos + BitVec.ofNat 64 m := by
  cases m with
  | zero => simp
  | succ m => rfl

variable {s m}

theorem advanced_wpos_toNat (h : s.wpos.toNat + m < 2 ^ 64) : (s.advanced m).wpos.toNat = s.wpos.toNat + m := by
  rw [advanced_wpos, BitVec.toNat_add, BitVec.toNat_ofNat]
  omega

/-- The sample that the next advance asks for. -/
theorem advanced_needRun (h : s.wpos.toNat + m < 2 ^ 64) :
    (s.advanced m).needRun (s.advanced m).wpos.toNat = s.needRun (s.wpos.toNat + m) := by
  rw [advanced_wpos_toNat h, State.needRun, State.needRun, advanced_src, advanced_eos]

end Advanced

/-- One advance over a sample that is there, from the state after `m` advances. -/
theorem advanceRun_advanced {s : State} {m v : Nat} (hm : s.wpos.toNat + m + 1 < 2 ^ 64)
    (hv : s.needRun (s.wpos.toNat + m) = .done v) : advanceRun (s.advanced m) = .done (s.advanced (m + 1)) := by
  have hpos : (s.advanced m).wpos.toNat = s.wpos.toNat + m := advanced_wpos_toNat (by omega)
  have hneed : (s.advanced m).needRun (s.advanced m).wpos.toNat = .done v := by
    rw [advanced_needRun (by omega), hv]
  rw [advanceRun_of_value hneed, if_neg (by omega), hpos]
  cases m with
  | zero => rfl
  | succ m =>
    have hwpos : s.wpos + BitVec.ofNat 64 (m + 1) + 1#64 = s.wpos + BitVec.ofNat 64 (m + 1 + 1) := by
      rw [BitVec.add_assoc, ← BitVec.ofNat_add]
    have htaken : max (max s.taken (s.wpos.toNat + m + 1)) (s.wpos.toNat + (m + 1) + 1) =
        max s.taken (s.wpos.toNat + (m + 1) + 1) := by omega
    simp [State.advanced, State.take, hwpos, htaken]

/-- The next `m` samples are there, and the left edge after them has 64 bits. -/
structure CanAdvance (s : State) (m : Nat) : Prop where
  edge : s.wpos.toNat + m < 2 ^ 64
  there : ∀ k, s.wpos.toNat ≤ k → k < s.wpos.toNat + m → k < powerCount s.src ∧ legalPower s.src k

theorem CanAdvance.zero (s : State) : CanAdvance s 0 :=
  ⟨s.wpos.isLt, fun _ hlo hhi => absurd hlo (Nat.not_le.mpr hhi)⟩

theorem advanceByRun_add {s : State} {m : Nat} (h : CanAdvance s m) (r : Nat) :
    advanceByRun (m + r) s = advanceByRun r (s.advanced m) := by
  induction m generalizing r with
  | zero => rw [Nat.zero_add, advanced_zero]
  | succ m ih =>
    obtain ⟨hedge, hthere⟩ := h
    obtain ⟨hcount, hlegal⟩ := hthere (s.wpos.toNat + m) (by omega) (by omega)
    have hbefore : CanAdvance s m := ⟨by omega, fun k hlo hhi => hthere k hlo (by omega)⟩
    rw [Nat.add_right_comm, Nat.add_assoc, ih hbefore, advanceByRun,
      advanceRun_advanced (by omega) (needRun_of_legal hcount hlegal)]

section Stops

variable {s : State} {m n : Nat} {c : Cause} {info : BitVec 64}

theorem advanceRun_of_fault (h : s.needRun s.wpos.toNat = .fault c info) : advanceRun s = .fault c info := by
  rw [advanceRun, h]

theorem advanceRun_of_wait (h : s.needRun s.wpos.toNat = .wait) : advanceRun s = .wait := by
  rw [advanceRun, h]

/-- No advance leaves the last 64-bit edge (R101; log 14). -/
theorem advanceRun_lastEdge {v : Nat} (h : s.needRun s.wpos.toNat = .done v) (hlast : lastEdge s.wpos.toNat) :
    advanceRun s = .fault .tsOverflow s.wpos := by
  rw [advanceRun_of_value h, if_pos hlast]

/-! A run of advances ends with the first of them that does not succeed. -/

theorem advanceByRun_fault (h : CanAdvance s m) (hn : m < n) (hstop : advanceRun (s.advanced m) = .fault c info) :
    advanceByRun n s = .fault c info := by
  obtain ⟨r, rfl⟩ : ∃ r, n = m + (r + 1) := ⟨n - m - 1, by omega⟩
  rw [advanceByRun_add h, advanceByRun, hstop]

theorem advanceByRun_wait (h : CanAdvance s m) (hn : m < n) (hstop : advanceRun (s.advanced m) = .wait) :
    advanceByRun n s = .wait := by
  obtain ⟨r, rfl⟩ : ∃ r, n = m + (r + 1) := ⟨n - m - 1, by omega⟩
  rw [advanceByRun_add h, advanceByRun, hstop]

end Stops

section Advance

variable {s : State} {n : BitVec 32} {c : Cause} {info : BitVec 64}

theorem winAdvance_answers (h : s.ready) {t : State} (ht : advanceRun s = .done t) :
    exec .winAdvance s = .next (t.respond .ok .empty) := by
  rw [exec, execWinAdvance, guarded_ready h, ht]
  rfl

theorem winAdvance_faults (h : s.ready) (ht : advanceRun s = .fault c info) : faults s .winAdvance c info := by
  rw [faults, exec, execWinAdvance, guarded_ready h, ht]
  rfl

theorem winAdvance_waits (h : s.ready) (ht : advanceRun s = .wait) : waits s .winAdvance := by
  rw [waits, exec, execWinAdvance, guarded_ready h, ht]
  rfl

theorem winAdvanceby_answers (h : s.ready) (ht : CanAdvance s n.toNat) :
    exec (.winAdvanceby n) s = .next ((s.advanced n.toNat).respond .ok .empty) := by
  have hrun : advanceByRun n.toNat s = .done (s.advanced n.toNat) := advanceByRun_add ht 0
  rw [exec, execWinAdvanceby, guarded_ready h, hrun]
  rfl

theorem winAdvanceby_faults (h : s.ready) {m : Nat} (ht : CanAdvance s m) (hn : m < n.toNat)
    (hstop : advanceRun (s.advanced m) = .fault c info) : faults s (.winAdvanceby n) c info := by
  rw [faults, exec, execWinAdvanceby, guarded_ready h, advanceByRun_fault ht hn hstop]
  rfl

theorem winAdvanceby_waits (h : s.ready) {m : Nat} (ht : CanAdvance s m) (hn : m < n.toNat)
    (hstop : advanceRun (s.advanced m) = .wait) : waits s (.winAdvanceby n) := by
  rw [waits, exec, execWinAdvanceby, guarded_ready h, advanceByRun_wait ht hn hstop]
  rfl

end Advance

/-! ## `WIN.ISFULL` and `WIN.POSITION` (R555, R556) -/

section Full

variable {s : State}

theorem winIsfull_answers (h : s.ready) {b : Bool} (hb : isFullRun s = .done b) :
    answers s .winIsfull .ok (.bits 1 (BitVec.ofBool b)) := by
  rw [answers, exec, execWinIsfull, guarded_ready h, hb]
  rfl

theorem winIsfull_waits (h : s.ready) (hw : isFullRun s = .wait) : waits s .winIsfull := by
  rw [waits, exec, execWinIsfull, guarded_ready h, hw]
  rfl

theorem isFullRun_of_full (h : s.wpos.toNat + 1200 ≤ powerCount s.src) : isFullRun s = .done true := if_pos (decide_eq_true h)

theorem isFullRun_of_not_full (h : powerCount s.src < s.wpos.toNat + 1200) :
    isFullRun s = if s.eos then .done false else .wait :=
  if_neg fun hfull => absurd (of_decide_eq_true hfull) (Nat.not_le.mpr h)

theorem winPosition_answers (h : s.ready) : answers s .winPosition .ok (.bits 64 s.wpos) := by
  rw [answers, exec, execWinPosition, guarded_ready h]
  rfl

end Full

end Sys2Proof.Machine

namespace Sys2Proof.Proofs

open Sys2Proof Sys2Proof.Machine

/-- Settles O26: one law of the command for each answer of `need`, and the index check before it. -/
theorem getReadsTheWindow : Obligations.GetReadsTheWindow := by
  unfold Obligations.GetReadsTheWindow
  rintro s i k hready rfl
  exact ⟨winGet_faults_index hready, fun hi hk hlegal => winGet_answers hready hi (needRun_of_legal hk hlegal),
    fun n u hi hk hillegal => winGet_faults hready hi (needRun_of_firstIllegal hk hillegal),
    fun hi hk heos => winGet_faults hready hi (needRun_of_ended hk heos),
    fun hi hk heos => winGet_waits hready hi (needRun_of_not_ended hk heos)⟩

/-- Settles O28: a full window answers 1, one that is not full 0 or the wait, and `WIN.POSITION` asks for no sample. -/
theorem isFullAndPosition : Obligations.IsFullAndPosition := by
  unfold Obligations.IsFullAndPosition
  refine ⟨fun s hready =>
    ⟨fun hfull => winIsfull_answers hready (isFullRun_of_full hfull), fun hnot heos => ?_, fun hnot heos => ?_⟩,
    fun s => winPosition_answers⟩
  · exact winIsfull_answers (b := false) hready (by rw [isFullRun_of_not_full hnot, heos, if_pos rfl])
  · exact winIsfull_waits hready (by rw [isFullRun_of_not_full hnot, heos, if_neg Bool.false_ne_true])

/-- Settles O27: an advance succeeds where its sample is there and the edge has a next one; a run of them ends at the first
that does not. -/
theorem advanceMovesTheLeftEdge : Obligations.AdvanceMovesTheLeftEdge := by
  unfold Obligations.AdvanceMovesTheLeftEdge
  constructor
  · rintro s k hready rfl
    refine ⟨fun hk hlegal hedge => ?_, fun hk hlegal hlast => ?_, fun n u hk hillegal => ?_, fun hk heos => ?_, fun hk heos => ?_⟩
    · exact winAdvance_answers hready (advanceRun_advanced (m := 0) hedge (needRun_of_legal hk hlegal))
    · exact winAdvance_faults hready (advanceRun_lastEdge (needRun_of_legal hk hlegal) hlast.ge)
    · exact winAdvance_faults hready (advanceRun_of_fault (needRun_of_firstIllegal hk hillegal))
    · exact winAdvance_faults hready (advanceRun_of_fault (needRun_wpos_of_ended hk heos))
    · exact winAdvance_waits hready (advanceRun_of_wait (needRun_of_not_ended hk heos))
  · rintro s n p hready rfl
    refine ⟨?_, ?_, ?_, ?_, ?_, ?_, ?_⟩
    · rintro rfl
      exact winAdvanceby_answers hready (.zero s)
    · intro hn hcount hedge hlegal
      have hcan : CanAdvance s n.toNat := ⟨hedge, fun k hlo hhi => ⟨by omega, hlegal k hlo hhi⟩⟩
      rw [winAdvanceby_answers hready hcan, advanced_of_pos s _ hn, BitVec.ofNat_toNat]
      rfl
    · intro k hlo hhi hk hcount hlegal
      obtain ⟨m, rfl⟩ := Nat.exists_eq_add_of_le hlo
      have hcan : CanAdvance s m := ⟨hk, fun j hjlo hjhi => ⟨hcount ▸ hjhi, hlegal j hjlo hjhi⟩⟩
      have hm : m < n.toNat := Nat.lt_of_add_lt_add_left hhi
      have hneed := advanced_needRun hk
      exact ⟨fun heos => winAdvanceby_faults hready hcan hm (advanceRun_of_fault (hneed.trans (needRun_of_ended hcount.ge heos))),
        fun heos => winAdvanceby_waits hready hcan hm (advanceRun_of_wait (hneed.trans (needRun_of_not_ended hcount.ge heos)))⟩
    · intro k j u hlo hhi hk hcount hlegal hillegal
      obtain ⟨m, rfl⟩ := Nat.exists_eq_add_of_le hlo
      have hcan : CanAdvance s m := ⟨hk, fun j hjlo hjhi => ⟨hjhi.trans hcount, hlegal j hjlo hjhi⟩⟩
      have hneed := (advanced_needRun hk).trans (needRun_of_firstIllegal hcount hillegal)
      exact winAdvanceby_faults hready hcan (Nat.lt_of_add_lt_add_left hhi) (advanceRun_of_fault hneed)
    · intro hlast hcount hlegal
      have hp := s.wpos.isLt
      obtain ⟨m, hm⟩ : ∃ m, s.wpos.toNat + m = 2 ^ 64 - 1 := ⟨2 ^ 64 - 1 - s.wpos.toNat, by omega⟩
      have hcan : CanAdvance s m := ⟨by omega, fun k hlo hhi => ⟨by omega, hlegal k hlo (by omega)⟩⟩
      have hpos : (s.advanced m).wpos.toNat = 2 ^ 64 - 1 := (advanced_wpos_toNat hcan.edge).trans hm
      have hones : (s.advanced m).wpos = BitVec.allOnes 64 := BitVec.eq_of_toNat_eq (hpos.trans BitVec.toNat_allOnes.symm)
      have hneed := (advanced_needRun hcan.edge).trans
        (needRun_of_legal (by omega) (hlegal (s.wpos.toNat + m) (by omega) (by omega)))
      exact winAdvanceby_faults hready hcan (by omega) (hones ▸ advanceRun_lastEdge hneed (by omega))
    · intro hn hcount heos
      exact winAdvanceby_faults hready (.zero s) hn (advanceRun_of_fault (needRun_wpos_of_ended hcount.le heos))
    · intro hn hcount heos
      exact winAdvanceby_waits hready (.zero s) hn (advanceRun_of_wait (needRun_of_not_ended hcount.le heos))

end Sys2Proof.Proofs
end

section
/-! PROOFS. Bytes that are delivered later change no answer (43_window.md R551, R557, R559): a command that did not wait asked
only for power samples that are there, and these keep their values on a longer stream. -/

namespace Sys2Proof.Machine

/-! ## Power samples of a longer stream -/

section Stream

variable {src : List Byte} {k : Nat} (bs : List Byte)

theorem rawWord_append {n : Nat} (h : 2 * n + 1 < src.length) : rawWord (src ++ bs) n = rawWord src n := by
  rw [rawWord, rawWord, srcByte_append_left (by omega), srcByte_append_left h]

theorem power_append_left (h : k < powerCount src) : power (src ++ bs) k = power src k := by
  have hlength := four_mul_powerCount_le src
  calc power (src ++ bs) k = powerOfBytes (srcByte src) k := power_congr fun n hn => srcByte_append_left (by omega) bs
    _ = power src k := (power_congr fun _ _ => rfl).symm

/-- A search depends on its function at the elements searched. -/
theorem findSome?_congr_left {α β : Type} {l : List α} {f g : α → Option β} (h : ∀ a ∈ l, f a = g a) :
    l.findSome? f = l.findSome? g := by
  induction l with
  | nil => rfl
  | cons a l ih =>
    obtain ⟨ha, hl⟩ := List.forall_mem_cons.mp h
    rw [List.findSome?_cons, List.findSome?_cons, ha, ih hl]

/-- The illegal word of a power sample that is there is there too. -/
theorem badSample_lt {n : Nat} (h : badSample src k = some n) (hk : k < powerCount src) : 2 * n + 1 < src.length := by
  have hlength := four_mul_powerCount_le src
  obtain ⟨i, hi, hn⟩ := List.exists_of_findSome?_eq_some h
  have hi : i < 8 := List.mem_range.mp hi
  obtain ⟨-, hn⟩ := Option.ite_none_right_eq_some.mp hn
  cases hn
  omega

theorem badSample_append (h : k < powerCount src) : badSample (src ++ bs) k = badSample src k := by
  have hlength := four_mul_powerCount_le src
  refine findSome?_congr_left fun i hi => ?_
  have hi : i < 8 := List.mem_range.mp hi
  rw [rawWord_append bs (by omega)]

theorem need_append (h : k < powerCount src) (eos : Bool) : need (src ++ bs) eos k = need src eos k := by
  have hlater := powerCount_append_le src bs
  rw [need, need, if_neg (by omega), if_neg (by omega), badSample_append bs h, power_append_left bs h]
  cases hb : badSample src k with
  | none => rfl
  | some n => simp only [rawWord_append bs (badSample_lt hb h)]

theorem lt_powerCount_of_needAll {eos : Bool} {ks : List Nat} (h : needAll src eos ks = .done ()) (hk : k ∈ ks) :
    k < powerCount src := by
  obtain ⟨v, hv⟩ := (needAll_done_iff src eos ks).mp h k hk
  by_contra hge
  have hge : powerCount src ≤ k := Nat.not_lt.mp hge
  cases eos
  · rw [need_wait hge] at hv
    cases hv
  · rw [need_absent hge] at hv
    cases hv

theorem needAll_append {ks : List Nat} (h : needAll src false ks ≠ .wait) :
    needAll (src ++ bs) false ks = needAll src false ks := by
  induction ks with
  | nil => rfl
  | cons k ks ih =>
    rw [needAll] at h
    by_cases hk : k < powerCount src
    · rw [needAll, needAll, need_append bs hk]
      cases hv : (need src false k).run k with
      | done v =>
        rw [hv] at h
        exact ih h
      | fault c info => rfl
      | wait => rfl
    · rw [need_wait (Nat.not_lt.mp hk)] at h
      exact absurd rfl h

end Stream

/-! ## A scan position of a longer stream (R610) -/

section Congr

variable {src src' : List Byte} {p : Nat}

/-- The two streams have the same power samples at these indices. -/
def samePowers (src src' : List Byte) (ks : List Nat) : Prop := ∀ k ∈ ks, power src' k = power src k

theorem score_congr (h : samePowers src src' (Config.highOffs.map fun o => p + o)) : score src' p = score src p :=
  congrArg List.sum (List.map_congr_left fun _ ho => h _ (List.mem_map_of_mem ho))

theorem lowSum_congr (h : samePowers src src' (Config.lowOffs.map fun o => p + o)) : lowSum src' p = lowSum src p :=
  congrArg List.sum (List.map_congr_left fun _ ho => h _ (List.mem_map_of_mem ho))

theorem resolvePrev_congr {sp : Config.SkipPrev} {prev : Prev} (h : samePowers src src' (resolveReads sp p prev)) :
    resolvePrev src' sp p prev = resolvePrev src sp p prev := by
  cases prev with
  | score v => rfl
  | stale =>
    by_cases hp : p = 0 ∨ sp = .zero
    · rw [resolvePrev, resolvePrev, if_pos hp, if_pos hp]
    · rw [resolveReads, if_neg hp] at h
      rw [resolvePrev, resolvePrev, if_neg hp, if_neg hp, score_congr h]

theorem preamble_congr {sp : Config.SkipPrev} {prev : Prev} (h : samePowers src src' (preambleReads sp p prev)) :
    accepts src' p (resolvePrev src' sp p prev) = accepts src p (resolvePrev src sp p prev) ∧ score src' p = score src p := by
  simp only [preambleReads, samePowers, List.forall_mem_append] at h
  obtain ⟨⟨⟨hresolve, hscore⟩, hnext⟩, hlow⟩ := h
  rw [accepts, accepts, resolvePrev_congr hresolve, score_congr hscore, score_congr hnext, lowSum_congr hlow]
  exact ⟨rfl, rfl⟩

theorem sliceBit_congr {j : Nat} (h : samePowers src src' (bitReads p j)) : sliceBit src' p j = sliceBit src p j := by
  rw [sliceBit, sliceBit, h _ (by simp [bitReads]), h _ (by simp [bitReads])]

theorem sliceByte_congr {m : Nat} (h : samePowers src src' (byteReads p m)) : sliceByte src' p m = sliceByte src p m := by
  refine List.foldl_ext _ _ _ fun b i hi => ?_
  rw [sliceBit_congr fun k hk => h k (List.mem_flatMap.mpr ⟨i, hi, hk⟩)]

end Congr

theorem samePowers_append {src : List Byte} {eos : Bool} {ks : List Nat} (h : needAll src eos ks = .done ()) (bs : List Byte) :
    samePowers src (src ++ bs) ks := fun _ hk => power_append_left bs (lt_powerCount_of_needAll h hk)

section Scan

variable {src : List Byte} {sp : Config.SkipPrev} {p : Nat} {prev : Prev}

theorem sliceBytes_append {eos : Bool} (hb0 : needAll src eos (byteReads p 0) = .done ())
    (hrest : needAll src eos ((List.range 13).flatMap fun m => byteReads p (m + 1)) = .done ()) (bs : List Byte) :
    (List.range Config.frameBytes).map (sliceByte (src ++ bs) p) = (List.range Config.frameBytes).map (sliceByte src p) := by
  refine List.map_congr_left fun m hm => ?_
  have hm : m < 14 := List.mem_range.mp hm
  cases m with
  | zero => exact sliceByte_congr (samePowers_append hb0 bs)
  | succ m =>
    have hmem : m ∈ List.range 13 := List.mem_range.mpr (by omega)
    exact sliceByte_congr fun k hk => samePowers_append hrest bs k (List.mem_flatMap.mpr ⟨m, hmem, hk⟩)

theorem examine_append (h : examine src false sp p prev ≠ .wait) (bs : List Byte) :
    examine (src ++ bs) false sp p prev = examine src false sp p prev := by
  unfold examine at h ⊢
  cases hpre : needAll src false (preambleReads sp p prev) with
  | wait => simp [hpre] at h
  | fault c info => rw [needAll_append bs (by simp [hpre]), hpre]
  | done _ =>
    obtain ⟨haccepts, hscore⟩ := preamble_congr (samePowers_append hpre bs)
    rw [needAll_append bs (by simp [hpre]), hpre, haccepts, hscore]
    simp only [hpre] at h ⊢
    refine ite_congr rfl (fun hacc => ?_) fun _ => rfl
    rw [if_pos hacc] at h
    cases hb0 : needAll src false (byteReads p 0) with
    | wait => simp [hb0] at h
    | fault c info => rw [needAll_append bs (by simp [hb0]), hb0]
    | done _ =>
      have hbyte0 : sliceByte (src ++ bs) p 0 = sliceByte src p 0 := sliceByte_congr (samePowers_append hb0 bs)
      rw [needAll_append bs (by simp [hb0]), hb0, hbyte0]
      simp only [hb0] at h ⊢
      refine ite_congr rfl (fun hsize => ?_) fun _ => rfl
      rw [if_pos hsize] at h
      cases hrest : needAll src false ((List.range 13).flatMap fun m => byteReads p (m + 1)) with
      | wait => simp [hrest] at h
      | fault c info => rw [needAll_append bs (by simp [hrest]), hrest]
      | done _ => rw [needAll_append bs (by simp [hrest]), hrest, sliceBytes_append hb0 hrest]

theorem scan_append {n n' : Nat} (hn : n ≤ n') {taken : Nat} (h : scan src false sp n p prev taken ≠ .wait) (bs : List Byte) :
    scan (src ++ bs) false sp n' p prev taken = scan src false sp n p prev taken := by
  induction n generalizing n' p prev taken with
  | zero => exact absurd rfl h
  | succ n ih =>
    obtain ⟨m, rfl⟩ : ∃ m, n' = m + 1 := ⟨n' - 1, by omega⟩
    have hexam : examine src false sp p prev ≠ .wait := fun hwait => h (by rw [scan, hwait])
    cases he : examine src false sp p prev with
    | wait => exact absurd he hexam
    | fault c info => rw [scan, scan, examine_append hexam, he]
    | done e =>
      have he' := (examine_append hexam bs).trans he
      cases e with
      | found bytes t => rw [scan_found he, scan_found he']
      | rejected cur t =>
        rw [scan_rejected he] at h ⊢
        rw [scan_rejected he']
        refine ite_congr rfl (fun _ => rfl) fun hlast => ih (by omega) ?_
        rwa [if_neg hlast] at h

end Scan

/-! ## The same part of a command on a longer stream -/

/-- `s` with bytes delivered later at the end of its stream. -/
def State.extend (s : State) (bs : List Byte) : State := { s with src := s.src ++ bs }

/-- The second run is the first on a longer stream: a result is `later` of what it was, a fault is as it was, and of a run that
waits nothing is said. -/
inductive Run.Later {α : Type} (later : α → α) : Run α → Run α → Prop
  | done (a : α) : Run.Later later (.done a) (.done (later a))
  | fault (c : Cause) (info : BitVec 64) : Run.Later later (.fault c info) (.fault c info)
  | wait (r : Run α) : Run.Later later .wait r

section Runs

variable {s : State} (bs : List Byte)

theorem needRun_extend (heos : s.eos = false) {k : Nat} (h : s.needRun k ≠ .wait) : (s.extend bs).needRun k = s.needRun k := by
  have hk : k < powerCount s.src := by
    by_contra hge
    exact h (by rw [State.needRun, heos, need_wait (Nat.not_lt.mp hge), Need.run])
  exact congrArg (Need.run k) (need_append bs hk s.eos)

theorem winGetRun_later (heos : s.eos = false) (i : Nat) : (winGetRun i s).Later (·.extend bs) (winGetRun i (s.extend bs)) := by
  have hneed := needRun_extend bs heos (k := s.wpos.toNat + i)
  have hwpos : (s.extend bs).wpos = s.wpos := rfl
  unfold winGetRun
  rw [hwpos]
  cases hv : s.needRun (s.wpos.toNat + i) with
  | wait => exact .wait _
  | fault c info =>
    rw [hneed (by simp [hv]), hv]
    exact .fault c info
  | done v =>
    rw [hneed (by simp [hv]), hv]
    exact .done _

theorem advanceRun_later (heos : s.eos = false) : (advanceRun s).Later (·.extend bs) (advanceRun (s.extend bs)) := by
  have hneed := needRun_extend bs heos (k := s.wpos.toNat)
  cases hv : s.needRun s.wpos.toNat with
  | wait =>
    rw [advanceRun_of_wait hv]
    exact .wait _
  | fault c info =>
    rw [advanceRun_of_fault hv, advanceRun_of_fault (s := s.extend bs) ((hneed (by simp [hv])).trans hv)]
    exact .fault c info
  | done v =>
    rw [advanceRun_of_value hv, advanceRun_of_value (s := s.extend bs) ((hneed (by simp [hv])).trans hv)]
    change Run.Later _ _ (if lastEdge s.wpos.toNat then _ else _)
    split
    · exact .fault _ _
    · exact .done _

theorem advanceByRun_later (heos : s.eos = false) (n : Nat) :
    (advanceByRun n s).Later (·.extend bs) (advanceByRun n (s.extend bs)) := by
  induction n generalizing s with
  | zero => exact .done s
  | succ n ih =>
    have hfirst := advanceRun_later bs heos
    have hends := advanceRun_ends s
    rw [advanceByRun, advanceByRun]
    generalize advanceRun s = r, advanceRun (s.extend bs) = r' at hfirst hends
    cases hfirst with
    | done t => exact ih (hends.of_done.2.trans heos)
    | fault c info => exact .fault c info
    | wait _ => exact .wait _

theorem isFullRun_later (heos : s.eos = false) : (isFullRun s).Later id (isFullRun (s.extend bs)) := by
  have hcount := powerCount_append_le s.src bs
  by_cases hfull : s.wpos.toNat + 1200 ≤ powerCount s.src
  · rw [isFullRun_of_full hfull, isFullRun_of_full (s := s.extend bs) (hfull.trans hcount)]
    exact .done true
  · rw [isFullRun_of_not_full (Nat.not_le.mp hfull), heos, if_neg Bool.false_ne_true]
    exact .wait _

theorem fullPositions_append_le (src : List Byte) (p : Nat) : fullPositions src p ≤ fullPositions (src ++ bs) p := by
  have hcount := powerCount_append_le src bs
  unfold fullPositions
  omega

/-- The scan that `DEM.NEXT` starts in `s` (R610). -/
def State.scanRun (s : State) : Run Scan :=
  scan s.src s.eos s.cfg.skipPrev (fullPositions s.src s.wpos.toNat) s.wpos.toNat s.dprev s.taken

theorem scanRun_extend (heos : s.eos = false) (h : s.scanRun ≠ .wait) : (s.extend bs).scanRun = s.scanRun := by
  rw [State.scanRun, heos] at h
  rw [State.scanRun, State.scanRun, show (s.extend bs).eos = false from heos, heos]
  exact scan_append (fullPositions_append_le bs s.src s.wpos.toNat) h bs

theorem demRun_later (heos : s.eos = false) :
    (demRun s).Later (fun a => (a.1.extend bs, a.2)) (demRun (s.extend bs)) := by
  have hscan := scanRun_extend bs heos
  have hdstate : (s.extend bs).dstate = s.dstate := rfl
  unfold demRun
  rw [hdstate]
  cases s.dstate with
  | done => exact .done _
  | scanning =>
    unfold State.scanRun at hscan
    dsimp only
    generalize scan s.src _ _ _ _ _ _ = r at hscan ⊢
    generalize scan (s.extend bs).src _ _ _ _ _ _ = r' at hscan ⊢
    cases r with
    | wait => exact .wait _
    | fault c info =>
      rw [hscan nofun]
      exact .fault c info
    | done e =>
      rw [hscan nofun]
      cases e with
      | frame p bytes taken => exact .done _
      | ended p prev taken => exact .done _

theorem respondEmpty_later {r r' : Run State} (h : r.Later (·.extend bs) r') :
    r.respondEmpty.Later (·.extend bs) r'.respondEmpty := by
  cases h with
  | done t => exact .done (t.respond .ok .empty)
  | fault c info => exact .fault c info
  | wait _ => exact .wait _

theorem demRespond_later {r r' : Run (State × Option Frame)} (h : r.Later (fun a => (a.1.extend bs, a.2)) r') :
    (demRespond r).Later (·.extend bs) (demRespond r') := by
  cases h with
  | done a =>
    obtain ⟨t, _ | f⟩ := a
    · exact .done (t.respond .fin .empty)
    · exact .done (t.respond .ok (.frame f))
  | fault c info => exact .fault c info
  | wait _ => exact .wait _

theorem pipeRun_later {r r' : Run (State × Option Frame)} (h : r.Later (fun a => (a.1.extend bs, a.2)) r') :
    (pipeRun r).Later (·.extend bs) (pipeRun r') := by
  cases h with
  | done a =>
    obtain ⟨t, _ | f⟩ := a
    · exact .done (t.respond .fin .empty)
    · have hcfg : (t.extend bs).cfg = t.cfg := rfl
      simp only [pipeRun, hcfg]
      cases decodeFrame t.cfg f with
      | discard reason => exact .done (t.respond reason (.frame f))
      | message m =>
        dsimp only
        cases checkMsg m.toOperand with
        | done checked => exact .done ((trackMessage t checked).1.respond (trackMessage t checked).2 (.message m))
        | fault c info => exact .fault c info
        | wait => exact .wait _
  | fault c info => exact .fault c info
  | wait _ => exact .wait _

end Runs

/-! ## The same command on a longer stream -/

/-- If `t` holds a response, then `t'` is `t` with the later bytes. -/
def SameAnswer (bs : List Byte) (t t' : State) : Prop := t.resp ≠ none → t' = t.extend bs

namespace SameAnswer

variable {bs : List Byte} {s t t' u u' : State} {i : Instr}

theorem of_eq (h : t' = t.extend bs) : SameAnswer bs t t' := fun _ => h

theorem ite {p : Prop} [Decidable p] (ht : SameAnswer bs t t') (hu : SameAnswer bs u u') :
    SameAnswer bs (if p then t else u) (if p then t' else u') := by
  split
  · exact ht
  · exact hu

theorem withFrame {value : Frame → Value} : SameAnswer bs (s.withFrame value) ((s.extend bs).withFrame value) := by
  have hframe : (s.extend bs).frame = s.frame := rfl
  unfold State.withFrame
  rw [hframe]
  cases s.frame with
  | none => exact of_eq rfl
  | some f => exact of_eq rfl

/-- A wait is no response. -/
theorem settle {r r' : Run State} (h : r.Later (·.extend bs) r') : SameAnswer bs (s.settle i r) ((s.extend bs).settle i r') := by
  cases h with
  | done t => exact of_eq rfl
  | fault c info => exact of_eq rfl
  | wait _ => exact fun hresp => absurd rfl hresp

theorem of_guarded (h : SameAnswer bs u u') (hu : guarded s u = .next t) (ht : t.resp ≠ none) :
    guarded (s.extend bs) u' = .next (t.extend bs) := by
  obtain ⟨hcause, hfaulted, rfl⟩ | ⟨hready, rfl⟩ := guarded_cases hu
  · exact guarded_faulted (s := s.extend bs) hfaulted hcause u'
  · rw [guarded_ready (s := s.extend bs) hready, h ht]

end SameAnswer

section Commands

variable {s t : State} {i : Instr} {bs : List Byte}

theorem execPePower_extend {s0 s1 s2 s3 s4 s5 s6 s7 : BitVec 16} (h : execPePower s0 s1 s2 s3 s4 s5 s6 s7 s = .next t)
    (ht : t.resp ≠ none) : execPePower s0 s1 s2 s3 s4 s5 s6 s7 (s.extend bs) = .next (t.extend bs) := by
  refine SameAnswer.of_guarded ?_ h ht
  cases powerOperandBad 0 [s0, s1, s2, s3, s4, s5, s6, s7] with
  | none => exact .of_eq rfl
  | some e => exact .of_eq rfl

theorem execWinIsfull_extend (heos : s.eos = false) (h : execWinIsfull s = .next t) (ht : t.resp ≠ none) :
    execWinIsfull (s.extend bs) = .next (t.extend bs) := by
  have hfull := isFullRun_later bs heos
  refine SameAnswer.of_guarded (.settle ?_) h ht
  generalize isFullRun s = r, isFullRun (s.extend bs) = r' at hfull ⊢
  cases hfull with
  | done b => exact .done _
  | fault c info => exact .fault c info
  | wait _ => exact .wait _

theorem execMsgDecode_extend (h : execMsgDecode s = .next t) (ht : t.resp ≠ none) :
    execMsgDecode (s.extend bs) = .next (t.extend bs) := by
  refine SameAnswer.of_guarded ?_ h ht
  have hframe : (s.extend bs).frame = s.frame := rfl
  have hcfg : (s.extend bs).cfg = s.cfg := rfl
  rw [hframe, hcfg]
  cases s.frame with
  | none => exact .of_eq rfl
  | some f =>
    dsimp only
    cases decodeFrame s.cfg f with
    | message m => exact .of_eq rfl
    | discard reason => exact .of_eq rfl

theorem execAltDecode_extend {alt12 : BitVec 16} (h : execAltDecode alt12 s = .next t) (ht : t.resp ≠ none) :
    execAltDecode alt12 (s.extend bs) = .next (t.extend bs) := by
  refine SameAnswer.of_guarded (.ite (.of_eq rfl) ?_) h ht
  cases altitudeFt (alt12.setWidth 12) with
  | some feet => exact .of_eq rfl
  | none => exact .of_eq rfl

theorem execTrkUpdate_extend {msg : MsgOperand} (h : execTrkUpdate msg s = .next t) (ht : t.resp ≠ none) :
    execTrkUpdate msg (s.extend bs) = .next (t.extend bs) := by
  refine SameAnswer.of_guarded (.settle ?_) h ht
  cases checkMsg msg with
  | done m => exact .done _
  | fault c info => exact .fault c info
  | wait => exact .wait _

theorem execBlkConfig_extend {n : BitVec 8} (h : execBlkConfig n s = .next t) (ht : t.resp ≠ none) :
    execBlkConfig n (s.extend bs) = .next (t.extend bs) := by
  refine SameAnswer.of_guarded ?_ h ht
  have hcfg : (s.extend bs).cfg = s.cfg := rfl
  rw [hcfg]
  cases cfgRegister s.cfg n.toNat with
  | none => exact .of_eq rfl
  | some v => exact .of_eq rfl

/-- Every command but `BLK.RESET` that gives a response gives the same one on a longer stream, and the same next state. -/
theorem exec_extend (hreset : i ≠ .blkReset) (heos : s.eos = false) (h : exec i s = .next t) (ht : t.resp ≠ none) :
    exec i (s.extend bs) = .next (t.extend bs) := by
  have hdem := demRun_later bs heos
  cases i with
  | bfExtract value start size => exact SameAnswer.of_guarded (.ite (.of_eq rfl) (.ite (.of_eq rfl) (.of_eq rfl))) h ht
  | bfTestbit value index => exact SameAnswer.of_guarded (.ite (.of_eq rfl) (.of_eq rfl)) h ht
  | bsRange seq lo hi => exact SameAnswer.of_guarded (.ite (.of_eq rfl) (.ite (.of_eq rfl) (.of_eq rfl))) h ht
  | crcCompute seq => exact SameAnswer.of_guarded (.of_eq rfl) h ht
  | crcCheck seq => exact SameAnswer.of_guarded (.of_eq rfl) h ht
  | crcTable index => exact SameAnswer.of_guarded (.of_eq rfl) h ht
  | scCondition lo hi => exact SameAnswer.of_guarded (.ite (.of_eq rfl) (.of_eq rfl)) h ht
  | pePower s0 s1 s2 s3 s4 s5 s6 s7 => exact execPePower_extend h ht
  | winGet idx => exact SameAnswer.of_guarded (.ite (.of_eq rfl) (.settle (winGetRun_later bs heos _))) h ht
  | winAdvance => exact SameAnswer.of_guarded (.settle (respondEmpty_later bs (advanceRun_later bs heos))) h ht
  | winAdvanceby n => exact SameAnswer.of_guarded (.settle (respondEmpty_later bs (advanceByRun_later bs heos _))) h ht
  | winIsfull => exact execWinIsfull_extend heos h ht
  | winPosition => exact SameAnswer.of_guarded (.of_eq rfl) h ht
  | demSize byte0 => exact SameAnswer.of_guarded (.of_eq rfl) h ht
  | demNext => exact SameAnswer.of_guarded (.settle (demRespond_later bs hdem)) h ht
  | frmInject ts frame =>
    exact SameAnswer.of_guarded (.ite (.of_eq rfl) (.ite (.of_eq rfl) (.ite (.of_eq rfl) (.of_eq rfl)))) h ht
  | frmTs => exact SameAnswer.of_guarded .withFrame h ht
  | frmDf => exact SameAnswer.of_guarded .withFrame h ht
  | frmCa => exact SameAnswer.of_guarded .withFrame h ht
  | frmIcao => exact SameAnswer.of_guarded .withFrame h ht
  | frmMe => exact SameAnswer.of_guarded .withFrame h ht
  | frmTc => exact SameAnswer.of_guarded .withFrame h ht
  | frmBytes => exact SameAnswer.of_guarded .withFrame h ht
  | msgDecode => exact execMsgDecode_extend h ht
  | altDecode alt12 => exact execAltDecode_extend h ht
  | grayDecode v n => exact SameAnswer.of_guarded (.ite (.of_eq rfl) (.ite (.of_eq rfl) (.of_eq rfl))) h ht
  | csChar code => exact SameAnswer.of_guarded (.ite (.of_eq rfl) (.of_eq rfl)) h ht
  | cprMerge x0 y0 x1 y1 recent => exact SameAnswer.of_guarded (.of_eq rfl) h ht
  | trkUpdate msg => exact execTrkUpdate_extend h ht
  | trkPurge now => exact SameAnswer.of_guarded (.ite (.of_eq rfl) (.of_eq rfl)) h ht
  | trkRead icao => exact SameAnswer.of_guarded (.of_eq rfl) h ht
  | trkLast => exact SameAnswer.of_guarded (.of_eq rfl) h ht
  | evPop => exact SameAnswer.of_guarded (.of_eq rfl) h ht
  | pipeStep => exact SameAnswer.of_guarded (.settle (pipeRun_later bs hdem)) h ht
  | blkReset => exact absurd rfl hreset
  | blkStatus =>
    obtain ⟨hcause, rfl⟩ := unguarded_cases h
    exact unguarded_legal (s := s.extend bs) hcause _
  | blkConfig n => exact execBlkConfig_extend h ht

end Commands

end Sys2Proof.Machine

namespace Sys2Proof.Proofs

open Sys2Proof Sys2Proof.Machine

/-- Settles O8: a command that gives a response asked only for power samples that are there, and these are the same on a longer
stream. -/
theorem laterBytesChangeNoAnswer : Obligations.LaterBytesChangeNoAnswer := by
  unfold Obligations.LaterBytesChangeNoAnswer
  exact fun i s t bs hreset heos h ht => exec_extend hreset heos h ht

end Sys2Proof.Proofs
end

section
/-! PROOFS. The demodulator: 44_demodulator.md R601 to R614. The reads, the preamble test and the bytes of a scan position are
those of the statements, each way through the position has one law, and `DEM.NEXT` ends as its scan does. -/

namespace Sys2Proof.Machine

/-! ## Several power samples in order (R502, R911) -/

section Reads

variable {s : State} {ks : List Nat}

/-- Power samples that are there and whose raw words are 12-bit words. -/
def canRead (src : List Byte) (ks : List Nat) : Prop := ∀ k ∈ ks, k < powerCount src ∧ legalPower src k

theorem needAll_of_canRead (h : canRead s.src ks) : needAll s.src s.eos ks = .done () :=
  (needAll_done_iff ..).mpr fun k hk => ⟨_, need_value (h k hk).1 (badSample_of_legal (h k hk).2) _⟩

theorem needAll_append_of_canRead (h : canRead s.src ks) (more : List Nat) :
    needAll s.src s.eos (ks ++ more) = needAll s.src s.eos more := by
  induction ks with
  | nil => rfl
  | cons k ks ih =>
    obtain ⟨⟨hk, hlegal⟩, hks⟩ := List.forall_mem_cons.mp h
    rw [List.cons_append, needAll, show (need s.src s.eos k).run k = _ from needRun_of_legal hk hlegal]
    exact ih hks

/-- The first power sample with an illegal raw word decides, and of its words the lowest (log 12, log 13). -/
theorem needAll_of_firstIllegal {j k n u : Nat} (hj : ks[j]? = some k) (hbefore : canRead s.src (ks.take j))
    (hk : k < powerCount s.src) (h : firstIllegal s.src k n u) :
    needAll s.src s.eos ks = .fault .sampleRange (BitVec.ofNat 64 (n * 65536 + u)) := by
  obtain ⟨hlt, rfl⟩ := List.getElem?_eq_some_iff.mp hj
  have hsplit : ks = ks.take j ++ ks[j] :: ks.drop (j + 1) := by simp
  rw [hsplit, needAll_append_of_canRead hbefore, needAll,
    show (need s.src s.eos ks[j]).run ks[j] = _ from needRun_of_firstIllegal hk h]

theorem legalPower_of_badSample {src : List Byte} {k : Nat} (h : badSample src k = none) : legalPower src k := by
  intro n hlo hhi
  have hword := List.findSome?_eq_none_iff.mp h (n + 6 - 2 * k) (List.mem_range.mpr (by omega))
  rw [show 2 * k + (n + 6 - 2 * k) - 6 = n by omega, ite_eq_right_iff] at hword
  rw [← rawWord_eq_getD]
  exact Nat.not_lt.mp fun hbad => absurd (hword ⟨by omega, hbad⟩) nofun

/-- A command goes on only with power samples of 12-bit raw words. -/
theorem legalPower_of_needAll {src : List Byte} {eos : Bool} (h : needAll src eos ks = .done ()) {k : Nat} (hk : k ∈ ks) :
    legalPower src k := by
  obtain ⟨v, hv⟩ := (needAll_done_iff src eos ks).mp h k hk
  cases hbad : badSample src k with
  | none => exact legalPower_of_badSample hbad
  | some n =>
    rw [need_bad (lt_powerCount_of_needAll h hk) hbad] at hv
    cases hv

end Reads

/-! ## The preamble test at the left edge (R601 to R604) -/

theorem score_eq_scoreAt (src : List Byte) (p : Nat) : score src p = scoreAt src p := by
  simp [score, Config.highOffs, scoreAt, Nat.add_assoc]

theorem lowSum_eq_lowAt (src : List Byte) (p : Nat) : lowSum src p = lowAt src p := by
  simp [lowSum, Config.lowOffs, lowAt, Nat.add_assoc]

theorem resolvePrev_eq_previousScore (s : State) :
    resolvePrev s.src s.cfg.skipPrev s.wpos.toNat s.dprev = previousScore s := by
  rw [previousScore]
  cases s.dprev with
  | score v => rfl
  | stale => rw [resolvePrev, score_eq_scoreAt]

theorem accepts_iff_preambleAt (s : State) :
    accepts s.src s.wpos.toNat (resolvePrev s.src s.cfg.skipPrev s.wpos.toNat s.dprev) = true ↔ preambleAt s := by
  rw [accepts, decide_eq_true_iff, resolvePrev_eq_previousScore, lowSum_eq_lowAt, score_eq_scoreAt, score_eq_scoreAt, preambleAt]

theorem preambleReads_eq_preambleOrder (s : State) :
    preambleReads s.cfg.skipPrev s.wpos.toNat s.dprev = preambleOrder s := by
  rw [preambleOrder]
  cases s.dprev with
  | score v => rfl
  | stale =>
    by_cases hp : s.wpos.toNat = 0 ∨ s.cfg.skipPrev = .zero
    · simp only [preambleReads, resolveReads, if_pos hp]
      rfl
    · obtain ⟨q, hq⟩ := Nat.exists_eq_succ_of_ne_zero (not_or.mp hp).1
      simp only [preambleReads, resolveReads, hq]
      rfl

theorem le_of_mem_preambleOrder {s : State} {k : Nat} (h : k ∈ preambleOrder s) : k ≤ s.wpos.toNat + 46 := by
  rw [preambleOrder] at h
  cases hprev : s.dprev with
  | score v =>
    simp only [hprev, List.mem_append, List.mem_cons, List.not_mem_nil, or_false, false_or] at h
    omega
  | stale =>
    simp only [hprev, List.mem_append] at h
    split at h
    · simp only [List.mem_cons, List.not_mem_nil, or_false, false_or] at h
      omega
    · simp only [List.mem_cons, List.not_mem_nil, or_false] at h
      omega

/-- With a full window the reads of the preamble test are there. -/
theorem canRead_of_preambleOrder {s : State} (hfull : s.wpos.toNat + 1200 ≤ powerCount s.src) {ks : List Nat}
    (hks : ∀ k ∈ ks, k ∈ preambleOrder s) (h : ∀ k ∈ ks, legalPower s.src k) : canRead s.src ks :=
  fun k hk => ⟨by have := le_of_mem_preambleOrder (hks k hk); omega, h k hk⟩

/-- The score of a position whose preamble test has been read fits the 32 bits of `D.prev` (R135, R514). -/
theorem score_lt_of_needAll {src : List Byte} {eos : Bool} {sp : Config.SkipPrev} {p : Nat} {prev : Prev}
    (h : needAll src eos (preambleReads sp p prev) = .done ()) : score src p < 2 ^ 32 := by
  have hle : ∀ o ∈ Config.highOffs, power src (p + o) ≤ 134152200 := fun o ho =>
    power_le (legalPower_of_needAll h (List.mem_append_left _ (List.mem_append_left _ (List.mem_append_right _
      (List.mem_map_of_mem ho)))))
  have hsum := List.sum_le_card_nsmul (Config.highOffs.map fun o => power src (p + o)) 134152200 (by simpa using hle)
  rw [List.length_map] at hsum
  exact hsum.trans_lt (by decide)

/-! ## The bit slicer (R606 to R608) -/

/-- Comparison point `i` of the bit slicer at position `p`: two for each message bit (R606). -/
def slicerPoint (p i : Nat) : Nat := p + 80 + 5 * i

/-- A range cut into rows of `b`. -/
theorem flatMap_range_map_row {α : Type} (g : Nat → α) (a b : Nat) :
    ((List.range a).flatMap fun m => (List.range b).map fun i => g (b * m + i)) = (List.range (b * a)).map g := by
  induction a with
  | zero => simp
  | succ a ih =>
    rw [List.range_succ, List.flatMap_append, ih, Nat.mul_succ, List.range_add, List.map_append, List.map_map]
    simp [Function.comp_def]

theorem byteReads_eq (p m : Nat) : byteReads p m = (List.range 16).map fun i => slicerPoint p (16 * m + i) := by
  rw [byteReads, ← flatMap_range_map_row (fun i => slicerPoint p (16 * m + i)) 8 2]
  refine List.flatMap_congr fun i _ => ?_
  have hfirst : p + 80 + 10 * (8 * m + i) = slicerPoint p (16 * m + (2 * i + 0)) := by unfold slicerPoint; omega
  have hsecond : p + 80 + 10 * (8 * m + i) + 5 = slicerPoint p (16 * m + (2 * i + 1)) := by unfold slicerPoint; omega
  rw [bitReads, Config.bitBase, Config.bitPitch, Config.halfBit, hsecond, hfirst]
  rfl

theorem byte0Reads_eq (p : Nat) : byteReads p 0 = (List.range 16).map fun i => slicerPoint p (0 + i) := byteReads_eq p 0

theorem laterByteReads_eq (p : Nat) :
    ((List.range 13).flatMap fun m => byteReads p (m + 1)) = (List.range 208).map fun i => slicerPoint p (16 + i) := by
  rw [← flatMap_range_map_row (fun i => slicerPoint p (16 + i)) 13 16]
  refine List.flatMap_congr fun m _ => ?_
  simp only [byteReads_eq, Nat.mul_succ, Nat.add_comm 16, Nat.add_assoc]

/-- The bits of a byte, most significant first, as a number. -/
theorem toNat_foldl_bits (f : Nat → Bool) :
    ((List.range 8).foldl (fun (b : Byte) i => (b <<< 1) ||| (BitVec.ofBool (f i)).setWidth 8) 0#8).toNat =
      ((List.range 8).map fun i => if f i = true then 2 ^ (7 - i) else 0).sum := by
  simp only [show List.range 8 = [0, 1, 2, 3, 4, 5, 6, 7] from rfl, List.foldl, List.map, List.sum_cons, List.sum_nil]
  generalize f 0 = b0, f 1 = b1, f 2 = b2, f 3 = b3, f 4 = b4, f 5 = b5, f 6 = b6, f 7 = b7
  decide +revert

theorem sliceBit_iff (src : List Byte) (p j : Nat) :
    sliceBit src p j = true ↔ power src (p + 85 + 10 * j) ≤ power src (p + 80 + 10 * j) := by
  have hhalf : p + 80 + 10 * j + 5 = p + 85 + 10 * j := by omega
  rw [sliceBit, decide_eq_true_iff, Config.bitBase, Config.bitPitch, Config.halfBit, hhalf]

theorem sliceByte_toNat (src : List Byte) (p m : Nat) : (sliceByte src p m).toNat = byteAt src p m := by
  refine (toNat_foldl_bits fun i => sliceBit src p (8 * m + i)).trans (congrArg List.sum (List.map_congr_left fun i _ => ?_))
  simp only [sliceBit_iff]

theorem frameSize_eq (b : Byte) : frameSize b = if b.toNat / 8 = 17 then 14 else 0 := by
  revert b
  decide

/-- Byte 0 announces a frame exactly for downlink format 17 (R608, R609). -/
theorem frameSize_sliceByte_iff (src : List Byte) (p : Nat) :
    frameSize (sliceByte src p 0) = Config.frameBytes ↔ byteAt src p 0 / 8 = 17 := by
  rw [frameSize_eq, sliceByte_toNat, Config.frameBytes, ite_eq_left_iff]
  omega

/-- The bytes at `p` as a scan reads them. -/
def slicedBytes (src : List Byte) (p : Nat) : List Byte := (List.range Config.frameBytes).map (sliceByte src p)

theorem slicedBytes_eq_map_byteAt (src : List Byte) (p : Nat) :
    slicedBytes src p = (List.range 14).map fun m => BitVec.ofNat 8 (byteAt src p m) := by
  refine List.map_congr_left fun m _ => ?_
  rw [← sliceByte_toNat, BitVec.ofNat_toNat, BitVec.setWidth_eq]

theorem eq_slicedBytes {src bytes : List Byte} {p : Nat} (hlength : bytes.length = 14)
    (h : ∀ m, m < 14 → (bytes.getD m 0#8).toNat = byteAt src p m) : bytes = slicedBytes src p := by
  refine List.ext_getElem (by simp [hlength, slicedBytes, Config.frameBytes]) fun m hm _ => BitVec.eq_of_toNat_eq ?_
  have hbyte := h m (hlength ▸ hm)
  rw [List.getD_eq_getElem _ _ hm] at hbyte
  simp [hbyte, slicedBytes, sliceByte_toNat]

/-! ## The ways through a scan position (R610) -/

section Examine

variable {src : List Byte} {eos : Bool} {sp : Config.SkipPrev} {p : Nat} {prev : Prev} {c : Cause} {info : BitVec 64}

theorem examine_preamble_fault (h : needAll src eos (preambleReads sp p prev) = .fault c info) :
    examine src eos sp p prev = .fault c info := by
  rw [examine, h]

variable (hpre : needAll src eos (preambleReads sp p prev) = .done ())

include hpre

theorem examine_not_accepted (hacc : ¬accepts src p (resolvePrev src sp p prev) = true) :
    examine src eos sp p prev = .done (.rejected (score src p) (p + 47)) := by
  rw [examine, hpre]
  exact if_neg hacc

variable (hacc : accepts src p (resolvePrev src sp p prev) = true)

include hacc

theorem examine_byte0_fault (h : needAll src eos (byteReads p 0) = .fault c info) :
    examine src eos sp p prev = .fault c info := by
  rw [examine, hpre, h]
  exact if_pos hacc

variable (hbyte0 : needAll src eos (byteReads p 0) = .done ())

include hbyte0

theorem examine_other_format (hdf : byteAt src p 0 / 8 ≠ 17) :
    examine src eos sp p prev = .done (.rejected (score src p) (p + 156)) := by
  rw [examine, hpre, hbyte0]
  exact (if_pos hacc).trans (if_neg (mt (frameSize_sliceByte_iff src p).mp hdf))

variable (hdf : byteAt src p 0 / 8 = 17)

include hdf

theorem examine_later_fault (h : needAll src eos ((List.range 13).flatMap fun m => byteReads p (m + 1)) = .fault c info) :
    examine src eos sp p prev = .fault c info := by
  rw [examine, hpre, hbyte0, h]
  exact (if_pos hacc).trans (if_pos ((frameSize_sliceByte_iff src p).mpr hdf))

theorem examine_sliced (h : needAll src eos ((List.range 13).flatMap fun m => byteReads p (m + 1)) = .done ()) :
    examine src eos sp p prev = if bitcrc (slicedBytes src p) = 0#24 then .done (.found (slicedBytes src p) (p + 1196))
      else .done (.rejected (score src p) (p + 1196)) := by
  rw [examine, hpre, hbyte0, h, ← crcBytes_eq_bitcrc]
  exact (if_pos hacc).trans (if_pos ((frameSize_sliceByte_iff src p).mpr hdf))

end Examine

/-! ## The left edge (R609, R610) -/

/-- What `DEM.NEXT` finds at the left edge (R610). -/
def State.examineRun (s : State) : Run Exam := examine s.src s.eos s.cfg.skipPrev s.wpos.toNat s.dprev

section LeftEdge

variable {s : State} {n u : Nat}

theorem canRead_points (hfull : s.wpos.toNat + 1200 ≤ powerCount s.src) {a b : Nat} (hb : a + b ≤ 224)
    (h : legalPoints s (a + b)) : canRead s.src ((List.range b).map fun i => slicerPoint s.wpos.toNat (a + i)) := by
  intro k hk
  obtain ⟨i, hi, rfl⟩ := List.mem_map.mp hk
  have hi : i < b := List.mem_range.mp hi
  exact ⟨by unfold slicerPoint; omega, h (a + i) (by omega)⟩

/-- A read of comparison points that meets an illegal raw word at point `a + i`. -/
theorem needAll_points_of_firstIllegal (hfull : s.wpos.toNat + 1200 ≤ powerCount s.src) {a b i : Nat} (hi : i < b)
    (hb : a + b ≤ 224) (hbefore : legalPoints s (a + i)) (h : firstIllegal s.src (slicerPoint s.wpos.toNat (a + i)) n u) :
    needAll s.src s.eos ((List.range b).map fun i => slicerPoint s.wpos.toNat (a + i)) =
      .fault .sampleRange (BitVec.ofNat 64 (n * 65536 + u)) := by
  refine needAll_of_firstIllegal (j := i) (by simp [hi]) ?_ (by unfold slicerPoint; omega) h
  rw [← List.map_take, List.take_range, Nat.min_eq_left hi.le]
  exact canRead_points hfull (by omega) hbefore

theorem needAll_byte0 (hfull : s.wpos.toNat + 1200 ≤ powerCount s.src) (h : legalPoints s 16) :
    needAll s.src s.eos (byteReads s.wpos.toNat 0) = .done () := by
  rw [byte0Reads_eq]
  exact needAll_of_canRead (canRead_points hfull (by decide) h)

theorem needAll_laterBytes (hfull : s.wpos.toNat + 1200 ≤ powerCount s.src) (h : legalPoints s 224) :
    needAll s.src s.eos ((List.range 13).flatMap fun m => byteReads s.wpos.toNat (m + 1)) = .done () := by
  rw [laterByteReads_eq]
  exact needAll_of_canRead (canRead_points hfull (by decide) h)

theorem legalPoints_mono {a b : Nat} (hab : a ≤ b) (h : legalPoints s b) : legalPoints s a :=
  fun i hi => h i (hi.trans_le hab)

theorem needAll_preamble (h : scansCleanly s) :
    needAll s.src s.eos (preambleReads s.cfg.skipPrev s.wpos.toNat s.dprev) = .done () := by
  rw [preambleReads_eq_preambleOrder]
  exact needAll_of_canRead (canRead_of_preambleOrder h.full (fun _ hk => hk) h.legal)

/-- A sample of the preamble test with an illegal raw word (R610, R502; log 12). -/
theorem examineRun_preamble_fault (hfull : s.wpos.toNat + 1200 ≤ powerCount s.src) {j k : Nat}
    (hj : (preambleOrder s)[j]? = some k) (hbefore : ∀ k' ∈ (preambleOrder s).take j, legalPower s.src k')
    (h : firstIllegal s.src k n u) : s.examineRun = .fault .sampleRange (BitVec.ofNat 64 (n * 65536 + u)) := by
  have hk := le_of_mem_preambleOrder (List.mem_of_getElem? hj)
  refine examine_preamble_fault ?_
  rw [preambleReads_eq_preambleOrder]
  exact needAll_of_firstIllegal hj (canRead_of_preambleOrder hfull (fun _ => List.mem_of_mem_take) hbefore) (by omega) h

variable (hclean : scansCleanly s)

include hclean

theorem examineRun_of_no_preamble (hacc : ¬preambleAt s) :
    s.examineRun = .done (.rejected (scoreAt s.src s.wpos.toNat) (s.wpos.toNat + 47)) := by
  rw [State.examineRun, examine_not_accepted (needAll_preamble hclean) (mt (accepts_iff_preambleAt s).mp hacc),
    score_eq_scoreAt]

variable (hacc : preambleAt s)

include hacc

theorem examineRun_of_other_format (hpoints : legalPoints s 16) (hdf : byteAt s.src s.wpos.toNat 0 / 8 ≠ 17) :
    s.examineRun = .done (.rejected (scoreAt s.src s.wpos.toNat) (s.wpos.toNat + 156)) := by
  rw [State.examineRun, examine_other_format (needAll_preamble hclean) ((accepts_iff_preambleAt s).mpr hacc)
    (needAll_byte0 hclean.full hpoints) hdf, score_eq_scoreAt]

theorem examineRun_sliced (hpoints : legalPoints s 224) (hdf : byteAt s.src s.wpos.toNat 0 / 8 = 17) :
    s.examineRun = if bitcrc (slicedBytes s.src s.wpos.toNat) = 0#24 then
        .done (.found (slicedBytes s.src s.wpos.toNat) (s.wpos.toNat + 1196))
      else .done (.rejected (scoreAt s.src s.wpos.toNat) (s.wpos.toNat + 1196)) := by
  rw [State.examineRun, examine_sliced (needAll_preamble hclean) ((accepts_iff_preambleAt s).mpr hacc)
    (needAll_byte0 hclean.full (legalPoints_mono (by decide) hpoints)) hdf (needAll_laterBytes hclean.full hpoints),
    score_eq_scoreAt]

/-- A comparison point with an illegal raw word, one of byte 0 or, for downlink format 17, of the other bytes (R606, R609). -/
theorem examineRun_point_fault {j : Nat} (hj : j < 224) (hdf : 16 ≤ j → byteAt s.src s.wpos.toNat 0 / 8 = 17)
    (hpoints : legalPoints s j) (h : firstIllegal s.src (slicerPoint s.wpos.toNat j) n u) :
    s.examineRun = .fault .sampleRange (BitVec.ofNat 64 (n * 65536 + u)) := by
  have hpre := needAll_preamble hclean
  have haccepts := (accepts_iff_preambleAt s).mpr hacc
  by_cases hbyte0 : j < 16
  · refine examine_byte0_fault hpre haccepts ?_
    rw [byte0Reads_eq]
    exact needAll_points_of_firstIllegal hclean.full hbyte0 (by decide) (by rwa [Nat.zero_add]) (by rwa [Nat.zero_add])
  · obtain ⟨i, rfl⟩ := Nat.exists_eq_add_of_le (Nat.not_lt.mp hbyte0)
    refine examine_later_fault hpre haccepts (needAll_byte0 hclean.full (legalPoints_mono (by omega) hpoints))
      (hdf (by omega)) ?_
    rw [laterByteReads_eq]
    exact needAll_points_of_firstIllegal hclean.full (by omega) (by decide) hpoints h

end LeftEdge

/-- A valid frame at the left edge is found (R609). -/
theorem examineRun_of_frameAt {s : State} {bytes : List Byte} (h : frameAt s bytes) :
    s.examineRun = .done (.found bytes (s.wpos.toNat + 1196)) := by
  have hcrc := h.crc
  rw [eq_slicedBytes h.length h.sliced] at hcrc ⊢
  rw [examineRun_sliced h.clean h.preamble h.points h.df, if_pos hcrc]

/-! ## `DEM.NEXT` up to its response (R610 to R614) -/

theorem ofNat_toNat_wpos (s : State) : BitVec.ofNat 64 s.wpos.toNat = s.wpos := by
  rw [BitVec.ofNat_toNat, BitVec.setWidth_eq]

/-- The state in which the left edge has passed a position by: its score, and the samples computed (R609, R610). -/
def State.passed (s : State) (cur t : Nat) : State :=
  { s with wpos := s.wpos + 1#64, dprev := .score (BitVec.ofNat 32 cur), taken := max s.taken t }

theorem passed_wpos_toNat (s : State) (cur t : Nat) (h : s.wpos.toNat + 1 < 2 ^ 64) :
    (s.passed cur t).wpos.toNat = s.wpos.toNat + 1 := by
  rw [State.passed, BitVec.toNat_add]
  exact Nat.mod_eq_of_lt h

/-! A full window: what is found at the left edge decides. -/

section Scan

variable {s : State} (hfull : s.wpos.toNat + 1200 ≤ powerCount s.src)

include hfull

theorem scanRun_of_full : ∃ n, fullPositions s.src s.wpos.toNat = n + 1 ∧
    s.scanRun = scan s.src s.eos s.cfg.skipPrev (n + 1) s.wpos.toNat s.dprev s.taken := by
  obtain ⟨n, hn⟩ := Nat.exists_eq_succ_of_ne_zero fun hzero =>
    absurd ((fullPositions_eq_zero_iff s.src s.wpos.toNat).mp hzero) (Nat.not_lt.mpr hfull)
  exact ⟨n, hn, by rw [State.scanRun, hn]⟩

theorem scanRun_of_fault {c : Cause} {info : BitVec 64} (h : s.examineRun = .fault c info) : s.scanRun = .fault c info := by
  obtain ⟨n, -, hrun⟩ := scanRun_of_full hfull
  unfold State.examineRun at h
  rw [hrun, scan, h]

theorem scanRun_of_found {bytes : List Byte} {t : Nat} (h : s.examineRun = .done (.found bytes t)) :
    s.scanRun = if tsOverflows s.wpos.toNat then .fault .tsOverflow s.wpos
      else .done (.frame s.wpos.toNat bytes (max s.taken t)) := by
  obtain ⟨n, -, hrun⟩ := scanRun_of_full hfull
  rw [hrun, scan_found h, ofNat_toNat_wpos]

theorem scanRun_of_rejected {cur t : Nat} (h : s.examineRun = .done (.rejected cur t)) :
    s.scanRun = if lastEdge s.wpos.toNat then .fault .tsOverflow s.wpos else (s.passed cur t).scanRun := by
  obtain ⟨n, hn, hrun⟩ := scanRun_of_full hfull
  rw [hrun, scan_rejected h, ofNat_toNat_wpos]
  refine ite_congr rfl (fun _ => rfl) fun hlast => ?_
  rw [State.scanRun, passed_wpos_toNat s cur t (Nat.not_le.mp hlast)]
  exact congrArg (scan _ _ _ · _ _ _) (fullPositions_succ hn).symm

end Scan

section Run

variable {s : State}

theorem demRun_of_done (h : s.dstate = .done) : demRun s = .done (s, none) := by
  rw [demRun, h]

variable (hscan : s.dstate = .scanning)

include hscan

theorem demRun_of_scanRun_fault {c : Cause} {info : BitVec 64} (h : s.scanRun = .fault c info) : demRun s = .fault c info := by
  unfold State.scanRun at h
  rw [demRun, hscan, h]

theorem demRun_of_scanRun_wait (h : s.scanRun = .wait) : demRun s = .wait := by
  unfold State.scanRun at h
  rw [demRun, hscan, h]

theorem demRun_of_scanRun_frame {p taken : Nat} {bytes : List Byte} (h : s.scanRun = .done (.frame p bytes taken)) :
    demRun s = .done
      ({ s with
          wpos := BitVec.ofNat 64 (p + Config.skip), dprev := .stale
          frame := some ⟨BitVec.ofNat 64 (p * Config.nsPerSample), bytes⟩, taken := taken },
        some ⟨BitVec.ofNat 64 (p * Config.nsPerSample), bytes⟩) := by
  unfold State.scanRun at h
  rw [demRun, hscan, h]

theorem demRun_of_scanRun_ended {p taken : Nat} {prev : Prev} (h : s.scanRun = .done (.ended p prev taken)) :
    demRun s = .done ({ s with wpos := BitVec.ofNat 64 p, dprev := prev, dstate := .done, taken := taken }, none) := by
  unfold State.scanRun at h
  rw [demRun, hscan, h]

/-- The converse: a frame comes from the scan. -/
theorem demRun_eq_frame {t : State} {f : Frame} (h : demRun s = .done (t, some f)) :
    ∃ p bytes taken, s.scanRun = .done (.frame p bytes taken) ∧ f = ⟨BitVec.ofNat 64 (p * Config.nsPerSample), bytes⟩ := by
  cases hrun : s.scanRun with
  | fault c info => cases (demRun_of_scanRun_fault hscan hrun).symm.trans h
  | wait => cases (demRun_of_scanRun_wait hscan hrun).symm.trans h
  | done e =>
    cases e with
    | frame p bytes taken =>
      cases (demRun_of_scanRun_frame hscan hrun).symm.trans h
      exact ⟨p, bytes, taken, rfl, rfl⟩
    | ended p prev taken => cases (demRun_of_scanRun_ended hscan hrun).symm.trans h

/-- The passed position's own left edge, `D.prev` and mark are not in the result of the scan. -/
theorem demRun_passed {cur t : Nat} (h : (s.passed cur t).scanRun = s.scanRun) : demRun (s.passed cur t) = demRun s := by
  have hscan' : (s.passed cur t).dstate = .scanning := hscan
  cases hrun : s.scanRun with
  | fault c info => rw [demRun_of_scanRun_fault hscan hrun, demRun_of_scanRun_fault hscan' (h.trans hrun)]
  | wait => rw [demRun_of_scanRun_wait hscan hrun, demRun_of_scanRun_wait hscan' (h.trans hrun)]
  | done e =>
    cases e with
    | frame p bytes taken =>
      rw [demRun_of_scanRun_frame hscan hrun, demRun_of_scanRun_frame hscan' (h.trans hrun)]
      rfl
    | ended p prev taken =>
      rw [demRun_of_scanRun_ended hscan hrun, demRun_of_scanRun_ended hscan' (h.trans hrun)]
      rfl

/-! A window that is not full (R555, R614, R616). -/

theorem demRun_of_not_full_ended (heos : s.eos = true) (h : powerCount s.src < s.wpos.toNat + 1200) :
    demRun s = .done ({ s with dstate := .done }, none) := by
  have hrun : s.scanRun = .done (.ended s.wpos.toNat s.dprev s.taken) := by
    rw [State.scanRun, (fullPositions_eq_zero_iff ..).mpr h, heos]
    rfl
  rw [demRun_of_scanRun_ended hscan hrun, ofNat_toNat_wpos]

theorem demRun_of_not_full_wait (heos : s.eos = false) (h : powerCount s.src < s.wpos.toNat + 1200) : demRun s = .wait := by
  refine demRun_of_scanRun_wait hscan ?_
  rw [State.scanRun, (fullPositions_eq_zero_iff ..).mpr h, heos]
  rfl

variable (hfull : s.wpos.toNat + 1200 ≤ powerCount s.src)

include hfull

theorem demRun_of_examineRun_fault {c : Cause} {info : BitVec 64} (h : s.examineRun = .fault c info) :
    demRun s = .fault c info := demRun_of_scanRun_fault hscan (scanRun_of_fault hfull h)

/-- A frame is returned, unless its timestamp would reach 2^63 (R611, R612, R613). -/
theorem demRun_of_found {bytes : List Byte} (h : s.examineRun = .done (.found bytes (s.wpos.toNat + 1196))) :
    demRun s = if tsOverflows s.wpos.toNat then .fault .tsOverflow s.wpos
      else .done (foundState s bytes, some (foundFrame s bytes)) := by
  have hrun := scanRun_of_found hfull h
  split
  · next hts => exact demRun_of_scanRun_fault hscan (hrun.trans (if_pos hts))
  · next hts => exact demRun_of_scanRun_frame hscan (hrun.trans (if_neg hts))

/-- The run is that from the next position, unless there is none (R609, R610, R101). -/
theorem demRun_of_rejected {cur t : Nat} (h : s.examineRun = .done (.rejected cur t)) :
    demRun s = if lastEdge s.wpos.toNat then .fault .tsOverflow s.wpos else demRun (s.passed cur t) := by
  have hrun := scanRun_of_rejected hfull h
  split
  · next hlast => exact demRun_of_scanRun_fault hscan (hrun.trans (if_pos hlast))
  · next hlast => exact (demRun_passed hscan (hrun.trans (if_neg hlast)).symm).symm

end Run

/-! ## How the command ends -/

section Command

variable {s t : State} {c : Cause} {info : BitVec 64}

/-- A result of the demodulator is answered normally. -/
theorem demRespond_done (a : State × Option Frame) : ∃ o v, demRespond (.done a) = .done (a.1.respond o v) := by
  obtain ⟨u, _ | f⟩ := a
  · exact ⟨_, _, rfl⟩
  · exact ⟨_, _, rfl⟩

theorem demSize_answers (h : s.ready) (b : BitVec 8) :
    answers s (.demSize b) .ok (.bits 8 (BitVec.ofNat 8 (frameSize b))) := guarded_ready h _

theorem exec_demNext (h : s.ready) : exec .demNext s = .next (s.settle .demNext (demRespond (demRun s))) := guarded_ready h _

theorem demNext_of_frame (h : s.ready) {u : State} {f : Frame} (hrun : demRun s = .done (u, some f)) :
    exec .demNext s = .next (u.respond .ok (.frame f)) := by
  rw [exec_demNext h, hrun]
  rfl

theorem demNext_of_end (h : s.ready) {u : State} (hrun : demRun s = .done (u, none)) :
    exec .demNext s = .next (u.respond .fin .empty) := by
  rw [exec_demNext h, hrun]
  rfl

/-- The three ends of the command, told apart by the response. -/
theorem demNext_cases (h : s.ready) (ht : exec .demNext s = .next t) :
    (∃ a o v, demRun s = .done a ∧ demRespond (.done a) = .done t ∧ t.resp = some (.normal o v)) ∨
      (∃ c info, demRun s = .fault c info ∧ t.resp = some (.fault c info)) ∨ (demRun s = .wait ∧ t.resp = none) := by
  rw [exec_demNext h] at ht
  cases ht
  cases demRun s with
  | done a =>
    obtain ⟨o, v, ha⟩ := demRespond_done a
    rw [ha]
    exact .inl ⟨a, o, v, rfl, ha, rfl⟩
  | fault c info => exact .inr (.inl ⟨c, info, rfl, rfl⟩)
  | wait => exact .inr (.inr ⟨rfl, rfl⟩)

theorem demNext_faults_iff (h : s.ready) : faults s .demNext c info ↔ demRun s = .fault c info := by
  constructor
  · intro hfaults
    obtain ⟨_, _, _, -, -, hresp⟩ | ⟨_, _, hrun, hresp⟩ | ⟨-, hresp⟩ := demNext_cases h hfaults
    · cases hresp
    · cases hresp
      exact hrun
    · cases hresp
  · intro hrun
    rw [faults, exec_demNext h, hrun]
    rfl

theorem demNext_waits_iff (h : s.ready) : waits s .demNext ↔ demRun s = .wait := by
  constructor
  · intro hwaits
    obtain ⟨_, _, _, -, -, hresp⟩ | ⟨_, _, -, hresp⟩ | ⟨hrun, -⟩ := demNext_cases h hwaits
    · cases hresp
    · cases hresp
    · exact hrun
  · intro hrun
    rw [waits, exec_demNext h, hrun]
    rfl

/-- A normal response comes from a result. -/
theorem demRun_of_normal (h : exec .demNext s = .next t) {o : RespOutcome} {v : Value} (hresp : t.resp = some (.normal o v)) :
    ∃ a, demRun s = .done a ∧ demRespond (.done a) = .done t := by
  obtain ⟨-, -, rfl⟩ | ⟨hready, -⟩ := guarded_cases h
  · cases hresp
  · obtain ⟨a, _, _, hrun, ht, -⟩ | ⟨_, _, -, hfault⟩ | ⟨-, hnone⟩ := demNext_cases hready h
    · exact ⟨a, hrun, ht⟩
    · cases hresp.symm.trans hfault
    · cases hresp.symm.trans hnone

theorem demRun_of_frame (h : exec .demNext s = .next t) {f : Frame} (hresp : t.resp = some (.normal .ok (.frame f))) :
    ∃ u, demRun s = .done (u, some f) := by
  obtain ⟨⟨u, _ | g⟩, hrun, ht⟩ := demRun_of_normal h hresp
  · cases ht
    cases hresp
  · cases ht
    cases hresp
    exact ⟨u, hrun⟩

end Command

/-! ## A frame stands at a peak of the score (R603, R605) -/

/-- The score at `q` is above the next one and above the one before it; at the first position of a scan that is `prev`. -/
structure Peak (src : List Byte) (sp : Config.SkipPrev) (p : Nat) (prev : Prev) (q : Nat) : Prop where
  next : score src (q + 1) < score src q
  previous : (q = p ∧ resolvePrev src sp p prev < score src p) ∨ (p < q ∧ score src (q - 1) < score src q)

/-- A frame is found only behind an accepted preamble. -/
theorem peak_of_found {src : List Byte} {eos : Bool} {sp : Config.SkipPrev} {p : Nat} {prev : Prev} {bytes : List Byte} {t : Nat}
    (h : examine src eos sp p prev = .done (.found bytes t)) : Peak src sp p prev p := by
  obtain ⟨-, ⟨-, he⟩ | ⟨hacc, -⟩⟩ := examine_cases h
  · cases he
  · obtain ⟨-, hprevious, hnext⟩ := of_decide_eq_true hacc
    exact ⟨hnext, .inl ⟨rfl, hprevious⟩⟩

theorem examine_rejected_score {src : List Byte} {eos : Bool} {sp : Config.SkipPrev} {p : Nat} {prev : Prev} {cur t : Nat}
    (h : examine src eos sp p prev = .done (.rejected cur t)) : cur = score src p := by
  obtain ⟨-, ⟨-, he⟩ | ⟨-, -, ⟨-, he⟩ | ⟨-, -, ⟨-, he⟩ | ⟨-, he⟩⟩⟩⟩ := examine_cases h
  · cases he
    rfl
  · cases he
    rfl
  · cases he
  · cases he
    rfl

theorem scan_peak {src : List Byte} {eos : Bool} {sp : Config.SkipPrev} {n p q : Nat} {prev : Prev} {taken t : Nat}
    {bytes : List Byte} (h : scan src eos sp n p prev taken = .done (.frame q bytes t)) : Peak src sp p prev q := by
  induction n generalizing p prev taken with
  | zero => cases eos <;> cases h
  | succ n ih =>
    cases he : examine src eos sp p prev with
    | fault c info =>
      rw [scan, he] at h
      cases h
    | wait =>
      rw [scan, he] at h
      cases h
    | done e =>
      cases e with
      | found bytes' t' =>
        rw [scan_found he] at h
        split at h
        · cases h
        · cases h
          exact peak_of_found he
      | rejected cur t' =>
        rw [scan_rejected he] at h
        split at h
        · cases h
        · obtain ⟨hnext, ⟨rfl, hprevious⟩ | ⟨hlater, hprevious⟩⟩ := ih h
          · rw [resolvePrev, examine_rejected_score he, BitVec.toNat_ofNat,
              Nat.mod_eq_of_lt (score_lt_of_needAll (examine_cases he).1)] at hprevious
            exact ⟨hnext, .inr ⟨Nat.lt_succ_self p, hprevious⟩⟩
          · exact ⟨hnext, .inr ⟨Nat.lt_of_succ_lt hlater, hprevious⟩⟩

/-- No position on a plateau is a peak. -/
theorem Peak.not_plateau {src : List Byte} {sp : Config.SkipPrev} {p q k : Nat} {prev : Prev} (h : Peak src sp p prev q)
    (hk : p ≤ k) (hplateau : score src k = score src (k + 1)) : q ≠ k ∧ q ≠ k + 1 := by
  obtain ⟨hnext, hprevious⟩ := h
  refine ⟨?_, ?_⟩
  · rintro rfl
    omega
  · rintro rfl
    rw [Nat.add_sub_cancel] at hprevious
    omega

/-! ## `D.state` (R614) -/

/-- `D.state` of `t` is that of `s`, or it has become done after end-of-stream. -/
structure DStateMove (s t : State) : Prop where
  stays : s.dstate = .done → t.dstate = .done
  done : t.dstate = .done → s.dstate = .done ∨ s.eos = true

theorem DStateMove.of_dstate_eq {s t : State} (h : t.dstate = s.dstate) : DStateMove s t := ⟨h.trans, fun ht => .inl (h ▸ ht)⟩

theorem DStateMove.respond {s : State} (t : State) (o : RespOutcome) (v : Value) (h : DStateMove s t) :
    DStateMove s (t.respond o v) := ⟨h.stays, h.done⟩

theorem demRun_dstateMove (s : State) : (demRun s).Ends True fun a => DStateMove s a.1 := by
  cases hs : s.dstate with
  | done =>
    rw [demRun_of_done hs]
    exact .done (.of_dstate_eq rfl)
  | scanning => exact (demRun_demEnd s).mono id fun _ h => ⟨by simp [hs], h.done⟩

theorem DStateMove.of_guarded_settle {s u : State} {i : Instr} {r : Run State} (h : guarded s (s.settle i r) = .next u)
    (hr : r.Ends True (DStateMove s)) : DStateMove s u := by
  obtain ⟨-, -, rfl⟩ | ⟨-, rfl⟩ := guarded_cases h
  · exact .of_dstate_eq rfl
  · cases hr with
    | done hmove => exact hmove
    | fault c info => exact .of_dstate_eq rfl
    | wait _ => exact .of_dstate_eq rfl

theorem exec_dstateMove {i : Instr} {s t : State} (hreset : i ≠ .blkReset) (h : exec i s = .next t) : DStateMove s t := by
  by_cases hwrites : writesDState i = true
  · cases i with
    | demNext => exact .of_guarded_settle h (demRespond_ends_of DStateMove.respond (demRun_dstateMove s))
    | pipeStep =>
      exact .of_guarded_settle h
        (pipeRun_ends_of DStateMove.respond (fun _ _ _ _ ht => ⟨ht.stays, ht.done⟩) (demRun_dstateMove s))
    | blkReset => exact absurd rfl hreset
    | _ => cases hwrites
  · exact .of_dstate_eq ((exec_keeps hreset h).dstate (by simpa using hwrites))

/-- The demodulator is done only after end-of-stream. -/
def doneAfterEos (s : State) : Prop := s.dstate = .done → s.eos = true

theorem exec_doneAfterEos {i : Instr} {s t : State} (h : doneAfterEos s) (ht : exec i s = .next t) : doneAfterEos t := by
  by_cases hreset : i = .blkReset
  · subst hreset
    obtain ⟨-, rfl⟩ := unguarded_cases ht
    nofun
  · intro hdone
    rw [(exec_keeps hreset ht).stream.2]
    exact ((exec_dstateMove hreset ht).done hdone).elim h id

/-- The state that the host's action leads to, or in which it lets a command run. -/
def fetchedState : Fetched → Option State
  | .settle t => some t
  | .run _ t => some t
  | .stop _ => none
  | .refuse _ => none

theorem fetchCommand_doneAfterEos {s t : State} (h : doneAfterEos s) {command : List Byte}
    (ht : fetchedState (fetchCommand s command) = some t) : doneAfterEos t := by
  unfold fetchCommand at ht
  split at ht
  · cases ht
    exact h
  · cases ht
    unfold State.illegalCommand
    split
    · exact h
    · exact h
  · cases ht
  · cases ht

theorem deliver_doneAfterEos {s : State} (h : doneAfterEos s) (bs : List Byte) : doneAfterEos (s.deliver bs) := by
  rw [doneAfterEos, deliver_dstate, deliver_eos]
  exact h

theorem fetchIdle_doneAfterEos {s t : State} (h : doneAfterEos s) {act : HostAct}
    (ht : fetchedState (fetchIdle s act) = some t) : doneAfterEos t := by
  cases act with
  | issue command => exact fetchCommand_doneAfterEos h ht
  | deliver bs =>
    cases ht
    exact deliver_doneAfterEos h bs
  | eos =>
    cases ht
    exact fun _ => rfl
  | ioError =>
    cases ht
    exact h

theorem fetchWaiting_doneAfterEos {s t : State} {i : Instr} (h : doneAfterEos s) {act : HostAct}
    (ht : fetchedState (fetchWaiting s i act) = some t) : doneAfterEos t := by
  cases act with
  | issue command => cases ht
  | deliver bs =>
    cases ht
    exact deliver_doneAfterEos (s := { s with pending := none }) h bs
  | eos =>
    cases ht
    exact fun _ => rfl
  | ioError =>
    cases ht
    exact h

theorem fetch_doneAfterEos {s t : State} (h : doneAfterEos s) (ht : fetchedState (fetch s) = some t) : doneAfterEos t := by
  unfold fetch at ht
  split at ht
  · cases ht
  · unfold fetchNext at ht
    split at ht
    · cases ht
      exact h
    · next act rest _ =>
      have hrest : doneAfterEos { s with inbox := rest } := h
      split at ht
      · exact fetchIdle_doneAfterEos hrest ht
      · exact fetchWaiting_doneAfterEos hrest ht

theorem step_doneAfterEos {s t : State} (h : doneAfterEos s) (ht : step s = .next t) : doneAfterEos t := by
  have hfetched := fun u => fetch_doneAfterEos (t := u) h
  unfold step at ht
  cases hfetch : fetch s with
  | settle u =>
    rw [hfetch] at ht hfetched
    cases ht
    exact hfetched _ rfl
  | run i u =>
    rw [hfetch] at ht hfetched
    exact exec_doneAfterEos (hfetched _ rfl) ht
  | stop r =>
    rw [hfetch] at ht
    cases ht
  | refuse r =>
    rw [hfetch] at ht
    cases ht

end Sys2Proof.Machine

namespace Sys2Proof.Proofs

open Sys2Proof Sys2Proof.Machine

/-- Settles O30: the size that byte 0 announces, decided for each of the 256 bytes. -/
theorem sizeSelectsDownlinkFormat17 : Obligations.SizeSelectsDownlinkFormat17 := by
  unfold Obligations.SizeSelectsDownlinkFormat17
  intro s b hready
  have hanswer := demSize_answers hready b
  rwa [frameSize_eq, apply_ite (BitVec.ofNat 8)] at hanswer

/-- Settles O31: the scan ends where the window is not full, and no command but `BLK.RESET` takes `D.state` back. -/
theorem demodulatorEndsAtTheEndOfInput : Obligations.DemodulatorEndsAtTheEndOfInput := by
  unfold Obligations.DemodulatorEndsAtTheEndOfInput
  refine ⟨rfl, fun s hready hscan heos hcount => demNext_of_end hready (demRun_of_not_full_ended hscan heos hcount),
    fun s hready hdone => demNext_of_end hready (demRun_of_done hdone), ?_, fun s t ht h => step_doneAfterEos h ht⟩
  intro i s t ht hdone hscan
  by_contra hreset
  cases hscan.symm.trans ((exec_dstateMove hreset ht).stays hdone)

/-- Settles O32: the frame is found at the first position of the scan. -/
theorem demodulatorReturnsTheFrameAtTheLeftEdge : Obligations.DemodulatorReturnsTheFrameAtTheLeftEdge := by
  unfold Obligations.DemodulatorReturnsTheFrameAtTheLeftEdge
  intro s bytes hready h
  have hrun := demRun_of_found h.clean.scanning h.clean.full (examineRun_of_frameAt h)
  exact ⟨fun hts => demNext_of_frame hready (hrun.trans (if_neg (Nat.not_le.mpr hts))),
    fun hts => (demNext_faults_iff hready).mpr (hrun.trans (if_pos hts))⟩

/-- Settles O33: the three ways of a rejection leave the same run as the next position has. -/
theorem demodulatorDropsSilently : Obligations.DemodulatorDropsSilently := by
  unfold Obligations.DemodulatorDropsSilently
  rintro s s' reads hready hclean hway rfl
  have hrejected : s.examineRun = .done (.rejected (scoreAt s.src s.wpos.toNat) (s.wpos.toNat + reads)) := by
    obtain ⟨hacc, rfl⟩ | ⟨hacc, hpoints, hdf, rfl⟩ | ⟨hacc, hpoints, hdf, rfl, hcrc⟩ := hway
    · exact examineRun_of_no_preamble hclean hacc
    · exact examineRun_of_other_format hclean hacc hpoints hdf
    · rw [← slicedBytes_eq_map_byteAt] at hcrc
      rw [examineRun_sliced hclean hacc hpoints hdf, if_neg hcrc]
  have hrun := demRun_of_rejected hclean.scanning hclean.full hrejected
  refine ⟨fun hlt => ?_, fun hlast => (demNext_faults_iff hready).mpr (hrun.trans (if_pos hlast.ge))⟩
  rw [if_neg (Nat.not_le.mpr hlt)] at hrun
  refine ⟨passed_wpos_toNat s _ _ hlt, fun t o v ht hresp => ?_, fun c info h => ?_, fun h => ?_⟩
  · obtain ⟨a, ha, hrespond⟩ := demRun_of_normal ht hresp
    rw [exec_demNext hready, hrun.trans ha, hrespond]
    rfl
  · exact (demNext_faults_iff hready).mpr (hrun.trans ((demNext_faults_iff (s := s.passed _ _) hready).mp h))
  · exact (demNext_waits_iff hready).mpr (hrun.trans ((demNext_waits_iff (s := s.passed _ _) hready).mp h))

/-- Settles O34: a frame stands at a peak of the score, at or after the left edge. -/
theorem aPlateauIsNeverAccepted : Obligations.APlateauIsNeverAccepted := by
  unfold Obligations.APlateauIsNeverAccepted
  intro s t f p hscan hp hplateau ht hresp
  obtain ⟨u, hrun⟩ := demRun_of_frame ht hresp
  obtain ⟨q, bytes, taken, hframe, rfl⟩ := demRun_eq_frame hscan hrun
  rw [← score_eq_scoreAt, ← score_eq_scoreAt] at hplateau
  obtain ⟨hne, hne'⟩ := (scan_peak hframe).not_plateau hp hplateau
  have hend : (s.scanRun).Ends True (ScanEnd s.src s.eos s.wpos.toNat) := scan_scanEnd _ _ _ rfl s.wpos.isLt _ _
  cases (hframe ▸ hend).of_done with
  | frame _ hpq _ hts _ =>
    rw [toNat_timestamp hts, Config.nsPerSample]
    omega

/-- Settles O60: the reads before the illegal word succeed, and its read faults. -/
theorem demodulatorWaitsAndReportsBadSamples : Obligations.DemodulatorWaitsAndReportsBadSamples := by
  unfold Obligations.DemodulatorWaitsAndReportsBadSamples
  refine ⟨fun s hready hscan heos hcount => (demNext_waits_iff hready).mpr (demRun_of_not_full_wait hscan heos hcount),
    fun s j k n u hready hscan hfull hj hbefore hbad => ?_,
    fun s j n u hready hscan hfull hlegal hacc hj hdf hpoints hbad => ?_⟩
  · exact (demNext_faults_iff hready).mpr
      (demRun_of_examineRun_fault hscan hfull (examineRun_preamble_fault hfull hj hbefore hbad))
  · exact (demNext_faults_iff hready).mpr
      (demRun_of_examineRun_fault hscan hfull (examineRun_point_fault ⟨hscan, hfull, hlegal⟩ hacc hj hdf hpoints hbad))

end Sys2Proof.Proofs
end

section
/-! PROOFS. The frame register: 45_rawframe.md R651 to R661. Each field of a frame is a law about its bytes; the accessors share
`State.withFrame`, so that how they end is said once. -/

namespace Sys2Proof.Machine

/-! ## The fields of a frame, from its bytes (R240, R656 to R660) -/

section Fields

variable (f : Frame)

theorem df_toNat : f.df.toNat = (f.bytes.getD 0 0#8).toNat / 8 := by
  rw [Frame.df, Frame.byte0, BitVec.extractLsb'_toNat, Nat.shiftRight_eq_div_pow]
  omega

theorem df_eq_ofNat : f.df = BitVec.ofNat 5 ((f.bytes.getD 0 0#8).toNat / 8) := by
  rw [← df_toNat, BitVec.ofNat_toNat, BitVec.setWidth_eq]

theorem ca_eq_ofNat : f.ca = BitVec.ofNat 3 ((f.bytes.getD 0 0#8).toNat % 8) := by
  refine BitVec.eq_of_toNat_eq ?_
  simp [Frame.ca, Frame.byte0]

/-- The top byte of ME is byte 4. -/
theorem meNumber_div_byte : meNumber f / 2 ^ 48 = (f.bytes.getD 4 0#8).toNat := by
  rw [meNumber, show List.range 7 = [0, 1, 2, 3, 4, 5, 6] from rfl]
  simp only [List.foldl_cons, List.foldl_nil, Nat.reduceAdd]
  omega

theorem meNumber_lt : meNumber f < 2 ^ 56 := by
  have htop := meNumber_div_byte f
  omega

variable {f}

theorem icao_eq_ofNat (h : f.bytes.length = 14) :
    f.icao = BitVec.ofNat 24 ((f.bytes.getD 1 0#8).toNat * 65536 + (f.bytes.getD 2 0#8).toNat * 256 +
      (f.bytes.getD 3 0#8).toNat) := by
  rw [Frame.icao, byteRange, beNat_take_drop (by omega), BitVec.setWidth_ofNat_of_le (by decide),
    show List.range (4 - 1) = [0, 1, 2] from rfl]
  refine congrArg (BitVec.ofNat 24) ?_
  simp only [List.foldl_cons, List.foldl_nil, Nat.reduceAdd]
  omega

theorem me_eq_ofNat (h : f.bytes.length = 14) : f.me = BitVec.ofNat 56 (meNumber f) := by
  rw [Frame.me, byteRange, beNat_take_drop (by omega), BitVec.setWidth_ofNat_of_le (by decide)]
  rfl

theorem me_toNat (h : f.bytes.length = 14) : f.me.toNat = meNumber f := by
  rw [me_eq_ofNat h, BitVec.toNat_ofNat, Nat.mod_eq_of_lt (meNumber_lt f)]

theorem setWidth_me (h : f.bytes.length = 14) : f.me.setWidth 64 = BitVec.ofNat 64 (meNumber f) := by
  rw [← me_toNat h, BitVec.ofNat_toNat]

theorem meTc_eq_ofNat (h : f.bytes.length = 14) : meTc f.me = BitVec.ofNat 5 ((f.bytes.getD 4 0#8).toNat / 8) := by
  have htop := meNumber_div_byte f
  refine BitVec.eq_of_toNat_eq ?_
  rw [meTc, BitVec.extractLsb'_toNat, me_toNat h, BitVec.toNat_ofNat, Nat.shiftRight_eq_div_pow]
  omega

end Fields

/-! ## How the accessors end (R652) -/

section Accessors

variable {s : State} {i : Instr} {value : Frame → Value}

theorem withFrame_none (hframe : s.frame = none) : s.withFrame value = s.raiseFault .noFrame 0#64 := by
  simp only [State.withFrame, hframe]

theorem withFrame_some {f : Frame} (hframe : s.frame = some f) : s.withFrame value = s.respond .ok (value f) := by
  simp only [State.withFrame, hframe]

theorem faults_of_withFrame (hexec : exec i s = guarded s (s.withFrame value)) (h : s.ready) (hframe : s.frame = none) :
    faults s i .noFrame 0#64 := by
  rw [faults, hexec, guarded_ready h, withFrame_none hframe, State.raiseFault]

theorem answers_of_withFrame (hexec : exec i s = guarded s (s.withFrame value)) (h : s.ready) {f : Frame}
    (hframe : s.frame = some f) : answers s i .ok (value f) := by
  rw [answers, hexec, guarded_ready h, withFrame_some hframe, State.respond]

theorem msgDecode_faults (h : s.ready) (hframe : s.frame = none) : faults s .msgDecode .noFrame 0#64 := by
  simp only [faults, exec, execMsgDecode, guarded_ready h, hframe, State.raiseFault]

end Accessors

/-! ## How `FRM.INJECT` ends (R651) -/

section Inject

variable {s : State} {ts : Ts} {frame : List Byte}

/-- A timestamp is negative where its number reaches 2^63 (R21). -/
theorem tsNegative_iff : tsNegative ts = true ↔ 2 ^ 63 ≤ ts.toNat := by
  simp [tsNegative, BitVec.msb_eq_decide]

theorem frmInject_faults (h : s.ready) (hts : 2 ^ 63 ≤ ts.toNat) : faults s (.frmInject ts frame) .tsNegative ts := by
  rw [faults, exec, execFrmInject, guarded_ready h, if_pos (tsNegative_iff.mpr hts), State.raiseFault]

/-- The record is not refused for its timestamp. -/
theorem exec_frmInject (h : s.ready) (hts : ts.toNat < 2 ^ 63) :
    exec (.frmInject ts frame) s = .next (
      if (frame.getD 0 0#8).toNat / 8 ≠ 17 then s.respond .dropDf .empty
      else if bitcrc frame ≠ 0#24 then s.respond .dropCrc .empty
      else { s with frame := some ⟨ts, frame⟩ }.respond .ok (.frame ⟨ts, frame⟩)) := by
  rw [exec, execFrmInject, guarded_ready h, if_neg (mt tsNegative_iff.mp (Nat.not_le.mpr hts)), df_toNat, crcBytes_eq_bitcrc]
  rfl

end Inject

end Sys2Proof.Machine

namespace Sys2Proof.Proofs

open Sys2Proof Sys2Proof.Machine

/-- Settles O36: the accessors end as `State.withFrame` does, and each field is one of the frame's bytes. -/
theorem accessorsReadTheFrame : Obligations.AccessorsReadTheFrame := by
  unfold Obligations.AccessorsReadTheFrame
  constructor
  · intro s hready hframe
    have haccessor {i : Instr} {value : Frame → Value} (hexec : exec i s = guarded s (s.withFrame value)) :=
      faults_of_withFrame hexec hready hframe
    simp only [List.forall_mem_cons]
    exact ⟨haccessor rfl, haccessor rfl, haccessor rfl, haccessor rfl, haccessor rfl, haccessor rfl, haccessor rfl,
      msgDecode_faults hready hframe, List.forall_mem_nil _⟩
  · intro s f hready hframe hlength
    have haccessor {i : Instr} {value : Frame → Value} (hexec : exec i s = guarded s (s.withFrame value)) :=
      answers_of_withFrame hexec hready hframe
    rw [← df_eq_ofNat, ← ca_eq_ofNat, ← icao_eq_ofNat hlength, ← setWidth_me hlength, ← meTc_eq_ofNat hlength]
    exact ⟨haccessor (value := fun f => .bits 64 f.ts) rfl, haccessor (value := fun f => .bits 5 f.df) rfl,
      haccessor (value := fun f => .bits 3 f.ca) rfl, haccessor (value := fun f => .bits 24 f.icao) rfl,
      haccessor (value := fun f => .bits 64 (f.me.setWidth 64)) rfl, haccessor (value := fun f => .bits 5 (meTc f.me)) rfl,
      haccessor (value := fun f => .bytes f.bytes) rfl⟩

/-- Settles O35: the timestamp is checked before the downlink format, and that before the CRC. -/
theorem injectChecksAndStoresARecord : Obligations.InjectChecksAndStoresARecord := by
  unfold Obligations.InjectChecksAndStoresARecord
  intro s ts frame hready _
  refine ⟨frmInject_faults hready, fun hts hdf => ?_, fun hts hdf hcrc => ?_, fun hts hdf hcrc => ?_⟩
  · rw [answers, exec_frmInject hready hts, if_pos hdf, State.respond]
  · rw [answers, exec_frmInject hready hts, if_neg (not_not_intro hdf), if_pos hcrc, State.respond]
  · rw [exec_frmInject hready hts, if_neg (not_not_intro hdf), if_neg (not_not_intro hcrc), State.respond]

end Sys2Proof.Proofs
end

section
/-! PROOFS. The message classifier: 46_classify_ident_velocity.md R700 to R720. A field of ME is a stretch of `meNumber`, and
`MSG.DECODE` ends as `decodeFrame` says. -/

namespace Sys2Proof.Machine

/-! ## The fields of ME (R30, R240) -/

section Fields

variable {f : Frame} (h : f.bytes.length = 14)
include h

theorem extractLsb'_me_toNat {lo w hi : Nat} (hw : hi - lo + 1 = w) : (f.me.extractLsb' lo w).toNat = meField f hi lo := by
  rw [BitVec.extractLsb'_toNat, me_toNat h, Nat.shiftRight_eq_div_pow, meField, hw]

theorem extractLsb'_me_eq_iff {lo w hi : Nat} (hw : hi - lo + 1 = w) {v : BitVec w} :
    f.me.extractLsb' lo w = v ↔ meField f hi lo = v.toNat := by
  rw [← extractLsb'_me_toNat h hw, BitVec.toNat_inj]

theorem getLsbD_me (k : Nat) : f.me.getLsbD k = decide (meField f k k = 1) := by
  rw [BitVec.getLsbD, me_toNat h, Nat.testBit_eq_decide_div_mod_eq, meField, Nat.sub_self, zero_add, pow_one]

theorem meTc_toNat : (meTc f.me).toNat = meField f 55 51 := extractLsb'_me_toNat h rfl

end Fields

/-! ## The call-sign alphabet (R712) -/

theorem alphabetTable_getElem? (code : BitVec 6) : alphabetTable[code.toNat]? = some (alphabet code) := by
  revert code
  decide

theorem alphabetTable_getD (code : BitVec 6) : alphabetTable.getD code.toNat 0#8 = alphabet code := by
  rw [List.getD_eq_getElem?_getD, alphabetTable_getElem?, Option.getD_some]

/-- Every code is a call-sign character or the mark of an invalid one (R145, R712). -/
theorem alphabet_invalid_or_callSignChar (code : BitVec 6) : alphabet code = 0x3F#8 ∨ callSignChar (alphabet code) = true := by
  revert code
  decide

theorem identChars_eq_callSignChars {f : Frame} (h : f.bytes.length = 14) : identChars f.me = callSignChars f := by
  refine List.map_congr_left fun k hk => ?_
  have hk' : k < 8 := List.mem_range.mp hk
  rw [← extractLsb'_me_toNat h (w := 6) (by omega), alphabetTable_getD]

/-! ## Identification (R710, R715) -/

theorem trimCallSign_eq (trim : Config.Trim) (chars : List Byte) :
    trimCallSign trim chars = match trim with
      | .leading => chars.dropWhile (fun c => c == 0x20#8)
      | .trailing => chars.rdropWhile (fun c => c == 0x20#8) := by
  cases trim <;> rfl

theorem trimCallSign_sublist (trim : Config.Trim) (chars : List Byte) : (trimCallSign trim chars).Sublist chars := by
  cases trim with
  | leading => exact List.dropWhile_sublist _
  | trailing => exact (List.rdropWhile_prefix _ _).sublist

theorem categoryCa_toNat {f : Frame} (h : f.bytes.length = 14) (o : Config.Options) :
    (categoryCa o f f.me).toNat =
      match o.catCaSrc with | .me => meField f 50 48 | .cap => (f.bytes.getD 0 0#8).toNat % 8 := by
  unfold categoryCa
  cases o.catCaSrc with
  | me => exact extractLsb'_me_toNat h rfl
  | cap => simp [ca_eq_ofNat]

theorem identCategory_eq_ofNat (tc : BitVec 5) (ca : BitVec 3) :
    identCategory tc ca = BitVec.ofNat 8 ((14 - tc.toNat) * 8 + ca.toNat) := by
  refine BitVec.eq_of_toNat_eq ?_
  have hca := ca.isLt
  rw [identCategory, BitVec.toNat_or, BitVec.toNat_shiftLeft, BitVec.toNat_ofNat, BitVec.toNat_ofNat,
    BitVec.toNat_setWidth_of_le (by decide), Nat.mod_eq_of_lt (show 14 - tc.toNat < 2 ^ 8 by omega), Nat.shiftLeft_eq,
    Nat.mod_eq_of_lt (by omega), ← Nat.shiftLeft_eq, ← Nat.shiftLeft_add_eq_or_of_lt hca, Nat.shiftLeft_eq]
  omega

/-! ## The classifier (R700) -/

section Classifier

variable {f : Frame} (h : f.bytes.length = 14) (o : Config.Options)
include h

theorem decodeFrame_of_ident (hlow : 1 ≤ meField f 55 51) (hhigh : meField f 55 51 ≤ 4) :
    decodeFrame o f = decodeIdent o f (meTc f.me) f.me := by
  simp only [decodeFrame, meTc_toNat h]
  rw [if_pos ⟨hlow, hhigh⟩]

theorem decodeFrame_of_velocity (htc : meField f 55 51 = 19) : decodeFrame o f = decodeVelocity o f f.me := by
  simp only [decodeFrame, meTc_toNat h]
  rw [if_neg (by omega), if_pos htc]

theorem decodeFrame_of_other
    (htc : meField f 55 51 = 0 ∨ (5 ≤ meField f 55 51 ∧ meField f 55 51 ≤ 8) ∨ 23 ≤ meField f 55 51) :
    decodeFrame o f = .discard .discTc := by
  simp only [decodeFrame, meTc_toNat h]
  rw [if_neg (by omega), if_neg (by omega), if_neg (by omega)]

end Classifier

/-! ## How `MSG.DECODE` ends (R700) -/

section MsgDecode

variable {s : State} {f : Frame}

theorem msgDecode_message (h : s.ready) (hframe : s.frame = some f) {m : Message} (hm : decodeFrame s.cfg f = .message m) :
    answers s .msgDecode .ok (.message m) := by
  simp only [answers, exec, execMsgDecode, guarded_ready h, hframe, hm, State.respond]

theorem msgDecode_discard (h : s.ready) (hframe : s.frame = some f) {reason : RespOutcome}
    (hm : decodeFrame s.cfg f = .discard reason) : answers s .msgDecode reason .empty := by
  simp only [answers, exec, execMsgDecode, guarded_ready h, hframe, hm, State.respond]

end MsgDecode

/-! ## The decoders, from the fields -/

section Decoders

variable {f : Frame} (h : f.bytes.length = 14) (o : Config.Options)
include h

theorem decodeIdent_invalid (tc : BitVec 5) (hbad : 0x3F#8 ∈ callSignChars f) :
    decodeIdent o f tc f.me = .discard .discCallsign := by
  simp only [decodeIdent, identChars_eq_callSignChars h]
  rw [if_pos (List.contains_iff_mem.mpr hbad)]

theorem decodeIdent_valid (hgood : 0x3F#8 ∉ callSignChars f) {ca : Nat} (hca : (categoryCa o f f.me).toNat = ca)
    {callSign : List Byte} (htrim : trimCallSign o.trim (callSignChars f) = callSign) :
    decodeIdent o f (meTc f.me) f.me =
      .message (.ident f.ts f.icao (BitVec.ofNat 8 ((14 - meField f 55 51) * 8 + ca)) callSign) := by
  simp only [decodeIdent, identChars_eq_callSignChars h, identCategory_eq_ofNat, meTc_toNat h, hca, htrim]
  rw [if_neg (mt List.contains_iff_mem.mp hgood)]

/-- The subtype selects the path (R720): subtypes 1 and 2 are ground speeds. -/
theorem decodeVelocity_of_ground {factor : Nat}
    (hst : (meField f 50 48 = 1 ∧ factor = 1) ∨ (meField f 50 48 = 2 ∧ factor = o.gsFactorSt2.toNat)) :
    decodeVelocity o f f.me = decodeGroundSpeed f f.me factor := by
  simp only [decodeVelocity, extractLsb'_me_eq_iff h (show 50 - 48 + 1 = 3 from rfl), BitVec.toNat_ofNat]
  obtain ⟨hst, rfl⟩ | ⟨hst, rfl⟩ := hst <;> simp [hst, Config.gsFactorSt1]

/-- Subtypes 3 and 4 are airspeeds (R720). -/
theorem decodeVelocity_of_air {factor : Nat}
    (hst : (meField f 50 48 = 3 ∧ factor = 1) ∨ (meField f 50 48 = 4 ∧ factor = o.asFactorSt4.toNat)) :
    decodeVelocity o f f.me = decodeAirspeed f f.me factor := by
  simp only [decodeVelocity, extractLsb'_me_eq_iff h (show 50 - 48 + 1 = 3 from rfl), BitVec.toNat_ofNat]
  obtain ⟨hst, rfl⟩ | ⟨hst, rfl⟩ := hst <;> simp [hst, Config.asFactorSt3]

theorem decodeVelocity_of_other (hst : meField f 50 48 = 0 ∨ 5 ≤ meField f 50 48) :
    decodeVelocity o f f.me = .discard .discSt := by
  simp only [decodeVelocity, extractLsb'_me_eq_iff h (show 50 - 48 + 1 = 3 from rfl), BitVec.toNat_ofNat,
    Nat.reducePow, Nat.reduceMod]
  rw [if_neg (by omega), if_neg (by omega), if_neg (by omega), if_neg (by omega)]

end Decoders

end Sys2Proof.Machine

namespace Sys2Proof.Proofs

open Sys2Proof Sys2Proof.Machine

/-- Settles O44: a code of 6 bits has its place in the table of R712. -/
theorem charReadsTheAlphabet : Obligations.CharReadsTheAlphabet := by
  unfold Obligations.CharReadsTheAlphabet
  intro s code hready
  refine ⟨fun hbig => ?_, fun hsmall => ⟨alphabet (code.setWidth 6), ?_, ?_⟩⟩
  · rw [faults, exec, execCsChar, guarded_ready hready, if_pos hbig, State.raiseFault]
  · have hcode : (code.setWidth 6).toNat = code.toNat := by rw [BitVec.toNat_setWidth]; omega
    rw [← hcode, alphabetTable_getElem?]
  · rw [answers, exec, execCsChar, guarded_ready hready, if_neg (Nat.not_lt.mpr hsmall), State.respond]

/-- Settles O37: the classifier has no decoder for these type codes, and the velocity decoder no path for these subtypes. -/
theorem otherTypeCodesAreDiscarded : Obligations.OtherTypeCodesAreDiscarded := by
  unfold Obligations.OtherTypeCodesAreDiscarded
  intro s f hready hframe hlength
  refine ⟨fun htc => msgDecode_discard hready hframe (decodeFrame_of_other hlength _ htc),
    fun htc hst => msgDecode_discard hready hframe ?_⟩
  rw [decodeFrame_of_velocity hlength _ htc, decodeVelocity_of_other hlength _ hst]

/-- Settles O38: the characters are those of the table, and the category is the concatenation of its two parts. -/
theorem identificationIsDecoded : Obligations.IdentificationIsDecoded := by
  unfold Obligations.IdentificationIsDecoded
  intro s f hready hframe hlength hlow hhigh
  have hident := decodeFrame_of_ident hlength s.cfg hlow hhigh
  refine ⟨fun hbad => msgDecode_discard hready hframe ?_, fun hgood => msgDecode_message hready hframe ?_⟩
  · exact hident.trans (decodeIdent_invalid hlength _ _ hbad)
  · exact hident.trans (decodeIdent_valid hlength _ hgood (categoryCa_toNat hlength _) (trimCallSign_eq _ _))

end Sys2Proof.Proofs
end

section
/-! PROOFS. The rounding of square roots (00_scope.md R33, 46_classify_ident_velocity.md R722), and the range of every rounded
pattern: none is a NaN. -/

namespace Sys2Proof.Machine

/-! ## The integer square root -/

theorem isqrtFrom_eq_sqrt {n : Nat} (k r : Nat) (hlow : r * r ≤ n) (hhigh : n < (r + 2 ^ k) * (r + 2 ^ k)) :
    isqrtFrom n k r = n.sqrt := by
  induction k generalizing r with
  | zero => exact Nat.eq_sqrt.mpr ⟨hlow, hhigh⟩
  | succ k ih =>
    have hhalf : 2 ^ (k + 1) = 2 ^ k + 2 ^ k := by ring
    rw [isqrtFrom]
    split
    · next hbit => exact ih _ hbit (by rwa [add_assoc, ← hhalf])
    · next hbit => exact ih _ hlow (Nat.not_le.mp hbit)

theorem isqrt_eq_sqrt (n : Nat) : isqrt n = n.sqrt := by
  refine isqrtFrom_eq_sqrt _ 0 (Nat.zero_le n) ?_
  calc n < 2 ^ (n.log2 + 1) := Nat.lt_log2_self
    _ ≤ 2 ^ (n.log2 / 2 + 1 + (n.log2 / 2 + 1)) := Nat.pow_le_pow_right two_pos (by omega)
    _ = (0 + 2 ^ (n.log2 / 2 + 1)) * (0 + 2 ^ (n.log2 / 2 + 1)) := by rw [zero_add, pow_add]

/-! ## The mantissa of a root -/

/-- The integer part, moved up where the rest is above one half, or is one half of an odd number. -/
theorem roundsTo_of_floor {q : Nat} {y : ℝ} (hlow : q ≤ y) (hhigh : y < q + 1) :
    RoundsTo (if (q : ℝ) + 1 / 2 < y ∨ ((q : ℝ) + 1 / 2 = y ∧ q % 2 = 1) then q + 1 else q) y := by
  split
  · next hup =>
    have hdist : |((q + 1 : ℕ) : ℝ) - y| = q + 1 - y := by rw [Nat.cast_succ, abs_of_pos (sub_pos.mpr hhigh)]
    rcases hup with hup | ⟨hhalf, hodd⟩
    · exact ⟨by linarith, fun heq => by linarith⟩
    · exact ⟨by linarith, fun _ => by omega⟩
  · next hdown =>
    rw [not_or, not_lt] at hdown
    obtain ⟨hle, hhalf⟩ := hdown
    have hdist : |(q : ℝ) - y| = y - q := by rw [abs_sub_comm, abs_of_nonneg (sub_nonneg.mpr hlow)]
    refine ⟨by linarith, fun heq => ?_⟩
    have := mt (And.intro (show (q : ℝ) + 1 / 2 = y by linarith)) hhalf
    omega

/-- Bounds of `√b / d` are bounds of `b`. -/
theorem le_sqrt_div_iff {b d : Nat} (hd : 0 < d) (k : Nat) : (k : ℝ) ≤ √b / d ↔ k * k * (d * d) ≤ b := by
  rw [le_div_iff₀ (by exact_mod_cast hd), Real.le_sqrt (by positivity) (Nat.cast_nonneg b), mul_pow, sq, sq]
  exact_mod_cast Iff.rfl

/-- The mantissa of `f64SqrtRatio`, from the integer part of the root. -/
theorem sqrtMantissa_roundsTo {b d q : Nat} (hd : 0 < d) (hq : q = isqrt b / d) :
    RoundsTo
      (if (2 * q + 1) * (2 * q + 1) * (d * d) < 4 * b ∨ ((2 * q + 1) * (2 * q + 1) * (d * d) = 4 * b ∧ q % 2 = 1)
        then q + 1 else q) (√b / d) := by
  have hd' : (0 : ℝ) < d := by exact_mod_cast hd
  have hle (k : Nat) : k ≤ q ↔ (k : ℝ) ≤ √b / d := by
    rw [hq, le_sqrt_div_iff hd, Nat.le_div_iff_mul_le hd, isqrt_eq_sqrt, Nat.le_sqrt, mul_mul_mul_comm]
  have hlow := (hle q).mp le_rfl
  have hhigh : √b / d < ((q + 1 : ℕ) : ℝ) := not_le.mp (mt (hle _).mpr (Nat.not_succ_le_self _))
  have hroot : 4 * (b : ℝ) = (2 * (√b / d)) * (2 * (√b / d)) * (d * d) := by
    field_simp
    rw [Real.sq_sqrt (by positivity)]
    ring
  have hlt : (2 * q + 1) * (2 * q + 1) * (d * d) < 4 * b ↔ (q : ℝ) + 1 / 2 < √b / d := by
    rw [← Nat.cast_lt (α := ℝ)]
    push_cast
    rw [hroot, mul_lt_mul_iff_left₀ (by positivity), ← mul_self_lt_mul_self_iff (by positivity) (by positivity)]
    constructor <;> intro h <;> linarith
  have heq : (2 * q + 1) * (2 * q + 1) * (d * d) = 4 * b ↔ (q : ℝ) + 1 / 2 = √b / d := by
    rw [← Nat.cast_inj (R := ℝ)]
    push_cast
    rw [hroot, mul_left_inj' (by positivity), mul_self_inj (by positivity) (by positivity)]
    constructor <;> intro h <;> linarith
  simp only [hlt, heq]
  exact roundsTo_of_floor hlow (by exact_mod_cast hhigh)

/-! ## The exponent of a root -/

/-- Half of the exponent of `m / d²`, rounded down, brackets `√m / d`. -/
theorem sqrtExp_spec {m d : Nat} (hm : 0 < m) (hd : 0 < d) :
    (2 : ℝ) ^ (ratioExp m (d * d) / 2) ≤ √m / d ∧ √m / d < 2 ^ (ratioExp m (d * d) / 2 + 1) := by
  have hd' : (0 : ℝ) < d := by exact_mod_cast hd
  obtain ⟨hlow, hhigh⟩ := ratioExp_spec hm (Nat.mul_pos hd hd)
  generalize ratioExp m (d * d) = e at *
  have hsq : (√m / d) ^ 2 = (m : ℝ) / (d * d : ℕ) := by
    rw [div_pow, Real.sq_sqrt (Nat.cast_nonneg m), sq (d : ℝ), Nat.cast_mul]
  rw [← pow_le_pow_iff_left₀ (by positivity) (by positivity) two_ne_zero,
    ← pow_lt_pow_iff_left₀ (by positivity) (by positivity) two_ne_zero, hsq, ← zpow_natCast, ← zpow_natCast, ← zpow_mul,
    ← zpow_mul]
  exact ⟨(zpow_le_zpow_right₀ one_le_two (by omega)).trans hlow,
    hhigh.trans_le (zpow_le_zpow_right₀ one_le_two (by omega))⟩

theorem lt_overflow_bound {x : ℝ} (h : x < 2 ^ (53 : ℤ)) : x < 2 ^ (1024 : ℤ) - 2 ^ (970 : ℤ) := by
  have hunit : (2 : ℝ) ^ (1 : ℤ) ≤ 2 ^ (971 : ℤ) := zpow_le_zpow_right₀ one_le_two (by decide)
  rw [overflow_bound_eq]
  rw [zpow_ofNat] at h
  rw [zpow_one] at hunit
  generalize (2 : ℝ) ^ (971 : ℤ) = unit at hunit ⊢
  linarith

/-- The rounding of a root is the correct one. -/
theorem isF64Of_f64SqrtRatio {m d : Nat} (hd : 0 < d) (hd' : d ≤ 2 ^ 53) (hmax : m < d * d * 4 ^ 53) :
    (f64SqrtRatio m d).msb = false ∧ isF64Of (f64SqrtRatio m d) (√m / d) := by
  rcases Nat.eq_zero_or_pos m with rfl | hm
  · rw [f64SqrtRatio, if_pos rfl, Nat.cast_zero, Real.sqrt_zero, zero_div]
    exact ⟨rfl, isF64Of_zero⟩
  obtain ⟨hlow, hhigh⟩ := sqrtExp_spec hm hd
  have hupper : √m / d < 2 ^ (53 : ℤ) := by
    refine not_le.mp fun h => (Nat.not_le.mpr hmax) ?_
    have := (le_sqrt_div_iff hd (2 ^ 53)).mp (by exact_mod_cast h)
    linarith
  have hlower : (2 : ℝ) ^ (-53 : ℤ) ≤ √m / d := by
    have hroot : 1 ≤ √(m : ℝ) := Real.one_le_sqrt.mpr (by exact_mod_cast hm)
    have hd53 : (d : ℝ) ≤ 2 ^ (53 : ℤ) := by exact_mod_cast hd'
    rw [zpow_neg, inv_eq_one_div]
    exact div_le_div₀ (by positivity) hroot (by exact_mod_cast hd) hd53
  rw [f64SqrtRatio, if_neg hm.ne']
  dsimp only
  generalize ratioExp m (d * d) / 2 = e at *
  have he : e < 53 := (zpow_lt_zpow_iff_right₀ (one_lt_two (α := ℝ))).mp (hlow.trans_lt hupper)
  have he' : -53 < e + 1 := (zpow_lt_zpow_iff_right₀ (one_lt_two (α := ℝ))).mp (hlower.trans_lt hhigh)
  have hscale : √m / d * 2 ^ (52 - e) = √(m * 4 ^ (52 - e).toNat : ℕ) / d := by
    obtain ⟨k, hk⟩ := Int.eq_ofNat_of_zero_le (show 0 ≤ 52 - e by omega)
    rw [hk, Int.toNat_natCast, zpow_natCast, Nat.cast_mul, Real.sqrt_mul (Nat.cast_nonneg m),
      show ((4 ^ k : ℕ) : ℝ) = (2 ^ k) ^ 2 by rw [← pow_mul, mul_comm, pow_mul]; norm_num,
      Real.sqrt_sq (by positivity), div_mul_eq_mul_div]
  exact isF64Of_packF64 (by omega) (.inr hlow) hhigh (lt_overflow_bound hupper) (hscale ▸ sqrtMantissa_roundsTo hd rfl)

/-! ## No rounded pattern is a NaN -/

theorem packF64_toNat_le (e : ℤ) (m : Nat) : (packF64 e m).toNat ≤ 0x7FF * 2 ^ 52 := by
  rw [packF64, BitVec.toNat_ofNat]
  exact (Nat.mod_le _ _).trans (min_le_right _ _)

theorem f64Ratio_toNat_le (n d : Nat) : (f64Ratio n d).toNat ≤ 0x7FF * 2 ^ 52 := by
  unfold f64Ratio
  split
  · exact Nat.zero_le _
  · exact packF64_toNat_le _ _

theorem f64SqrtRatio_toNat_le (m d : Nat) : (f64SqrtRatio m d).toNat ≤ 0x7FF * 2 ^ 52 := by
  unfold f64SqrtRatio
  split
  · exact Nat.zero_le _
  · exact packF64_toNat_le _ _

/-- The magnitude bits of a NaN lie above those of the infinity. -/
theorem f64IsNaN_eq_false {v : F64} (h : v.toNat % 2 ^ 63 ≤ 0x7FF * 2 ^ 52) : f64IsNaN v = false := by
  refine Bool.eq_false_iff.mpr fun hnan => ?_
  simp only [f64IsNaN, Bool.and_eq_true, beq_iff_eq, bne_iff_ne, ← BitVec.toNat_inj, ne_eq, BitVec.extractLsb'_toNat,
    Nat.shiftRight_eq_div_pow, BitVec.toNat_ofNat] at hnan
  omega

theorem f64NonNeg_of_toNat_le {v : F64} (h : v.toNat ≤ 0x7FF * 2 ^ 52) : f64NonNeg v = true := by
  have hmsb : v.msb = false := by
    rw [BitVec.msb_eq_false_iff_two_mul_lt]
    omega
  rw [f64NonNeg, f64IsNaN_eq_false (by omega), hmsb]
  rfl

theorem f64IsNaN_f64Signed (z : ℤ) (d : Nat) : f64IsNaN (f64Signed z d) = false := by
  have hle := f64Ratio_toNat_le z.natAbs d
  unfold f64Signed
  split
  · refine f64IsNaN_eq_false ?_
    have hlow : (0x8000000000000000#64 ||| f64Ratio z.natAbs d).toNat % 2 ^ 63 = (f64Ratio z.natAbs d).toNat % 2 ^ 63 := by
      rw [BitVec.toNat_or, Nat.or_mod_two_pow]
      exact Nat.zero_or _
    omega
  · exact f64IsNaN_eq_false (by omega)

end Sys2Proof.Machine
end

section
/-! PROOFS. The fixed-point track and heading (46_classify_ident_velocity.md R723, R731, log 9) against the real angles, and the
rounding of an angle. -/

namespace Sys2Proof.Machine

/-! ## Rounding an angle -/

section Round

variable {n d : Nat} (hd : 0 < d)
include hd

/-- How a fraction below 8 is packed: its unit in the last place is at most 2^(−50). -/
theorem f64Ratio_eq_packF64_of_lt_eight (hn : 0 < n) (hx : (n : ℝ) / d < 8) :
    ∃ (e : ℤ) (m : Nat), f64Ratio n d = packF64 e m ∧ -1022 ≤ e ∧ e ≤ 2 ∧ (e = -1022 ∨ 2 ^ 52 ≤ m) ∧
      m ≤ 2 ^ 53 ∧ RoundsTo m ((n : ℝ) / d * 2 ^ (52 - e)) := by
  obtain ⟨m, heq, hm⟩ := f64Ratio_eq_packF64 hn hd
  obtain ⟨hlow, hhigh⟩ := ratioExp_spec hn hd
  have he : ratioExp n d < 3 := (zpow_lt_zpow_iff_right₀ (one_lt_two (α := ℝ))).mp (hlow.trans_lt (hx.trans_eq (by norm_num)))
  have hlow' : max (ratioExp n d) (-1022) = -1022 ∨ (2 : ℝ) ^ max (ratioExp n d) (-1022) ≤ (n : ℝ) / d := by
    rcases le_total (ratioExp n d) (-1022) with h | h
    · exact .inl (max_eq_right h)
    · exact .inr (by rwa [max_eq_left h])
  obtain ⟨hm52, hm53⟩ := hm.mantissa_bounds hlow' (hhigh.trans_le (zpow_le_zpow_right₀ one_le_two (by omega)))
  exact ⟨_, m, heq, le_max_right _ _, by omega, hm52, hm53, hm⟩

theorem f64Ratio_near (hx : (n : ℝ) / d < 8) : |(f64Value (f64Ratio n d) : ℝ) - n / d| ≤ 1 / 2 ^ 51 := by
  rcases Nat.eq_zero_or_pos n with rfl | hn
  · simp [f64Ratio, f64Value_of_fields (c := 0#64) rfl rfl rfl]
  obtain ⟨e, m, heq, he, he2, hm52, hm53, hm⟩ := f64Ratio_eq_packF64_of_lt_eight hd hn hx
  rw [heq, packF64_value he hm52 hm53 (by omega)]
  push_cast
  rw [abs_mul_unit_sub]
  calc |(m : ℝ) - n / d * 2 ^ (52 - e)| * 2 ^ (e - 52) ≤ 1 / 2 * 2 ^ (-50 : ℤ) :=
        mul_le_mul hm.near (zpow_le_zpow_right₀ one_le_two (by omega)) (by positivity) (by positivity)
    _ = 1 / 2 ^ 51 := by norm_num

/-- A fraction that lies more than a unit in the last place below 2π rounds to an angle. -/
theorem f64IsAngle_f64Ratio (hx : (n : ℝ) / d < 0x1921FB54442D17 / 2 ^ 50) : f64IsAngle (f64Ratio n d) = true := by
  rw [f64IsAngle, Bool.or_eq_true, decide_eq_true_eq]
  right
  rcases Nat.eq_zero_or_pos n with rfl | hn
  · rw [f64Ratio, if_pos rfl]
    decide
  obtain ⟨e, m, heq, he, he2, hm52, hm53, hm⟩ := f64Ratio_eq_packF64_of_lt_eight hd hn (hx.trans (by norm_num))
  rw [heq, packF64_toNat (by omega), f64TwoPi, BitVec.toNat_ofNat]
  rcases he2.lt_or_eq with he1 | rfl
  · omega
  · have hm2 : m ≤ 0x1921FB54442D17 := hm.le_of_lt_cast (by norm_num at hx ⊢; linarith)
    omega

end Round

/-! ## Fixed-point numbers -/

/-- A difference of naturals that stand for reals; the second one stays below the first. -/
theorem natSub_near {x y : Nat} {X Y ε δ : ℝ} (hx : |(x : ℝ) - X| ≤ ε) (hy : |(y : ℝ) - Y| ≤ δ) (h : Y + δ ≤ X - ε) :
    |((x - y : ℕ) : ℝ) - (X - Y)| ≤ ε + δ := by
  rw [abs_le] at hx hy
  have hle : y ≤ x := by exact_mod_cast (by linarith : (y : ℝ) ≤ x)
  rw [Nat.cast_sub hle, abs_le]
  constructor <;> linarith

theorem natAdd_near {x y : Nat} {X Y ε δ : ℝ} (hx : |(x : ℝ) - X| ≤ ε) (hy : |(y : ℝ) - Y| ≤ δ) :
    |((x + y : ℕ) : ℝ) - (X + Y)| ≤ ε + δ := by
  rw [Nat.cast_add, add_sub_add_comm]
  exact (abs_add_le _ _).trans (add_le_add hx hy)

theorem natDouble_near {x : Nat} {X ε : ℝ} (hx : |(x : ℝ) - X| ≤ ε) : |((2 * x : ℕ) : ℝ) - 2 * X| ≤ 2 * ε := by
  rw [two_mul, two_mul, two_mul]
  exact natAdd_near hx hx

theorem fixUnit_large : (2 : ℝ) ^ 100 ≤ 2 ^ fixBits := pow_le_pow_right₀ one_le_two (by decide)

theorem halfPiFix_near : |((piFix / 2 : ℕ) : ℝ) - Real.pi / 2 * 2 ^ fixBits| ≤ 844 := by
  have hatan := natDouble_near (atanFix_near (y := 1) (x := 1) (by decide) (by decide))
  rw [Nat.cast_one, div_one, Real.arctan_one] at hatan
  rw [piFix, show 4 * atanFix 1 1 / 2 = 2 * atanFix 1 1 by omega, show Real.pi / 2 = 2 * (Real.pi / 4) by ring, mul_assoc]
  exact hatan.trans (by norm_num)

/-! ## The angle between the legs -/

/-- The angle of the vector with legs `a` (east) and `b` (north) from north. -/
noncomputable def legAngle (a b : Nat) : ℝ := Real.arcsin (a / √((a : ℝ) ^ 2 + (b : ℝ) ^ 2))

theorem legAngle_nonneg (a b : Nat) : 0 ≤ legAngle a b := Real.arcsin_nonneg.mpr (by positivity)

theorem legAngle_le (a b : Nat) : legAngle a b ≤ Real.pi / 2 := Real.arcsin_le_pi_div_two _

theorem div_le_legAngle (a b : Nat) : a / √((a : ℝ) ^ 2 + (b : ℝ) ^ 2) ≤ legAngle a b := by
  have hle : a / √((a : ℝ) ^ 2 + (b : ℝ) ^ 2) ≤ 1 :=
    div_le_one_of_le₀ (Real.le_sqrt_of_sq_le (le_add_of_nonneg_right (by positivity))) (by positivity)
  calc a / √((a : ℝ) ^ 2 + (b : ℝ) ^ 2) = Real.sin (legAngle a b) :=
        (Real.sin_arcsin (neg_one_lt_zero.le.trans (by positivity)) hle).symm
    _ ≤ legAngle a b := Real.sin_le (legAngle_nonneg a b)

theorem sqrt_one_add_div_sq {x : ℝ} (hx : 0 < x) (y : ℝ) : √(1 + (y / x) ^ 2) = √(x ^ 2 + y ^ 2) / x := by
  rw [div_pow, one_add_div (by positivity), Real.sqrt_div (by positivity), Real.sqrt_sq hx.le]

theorem legAngle_eq_arctan {a b : Nat} (hb : 0 < b) : legAngle a b = Real.arctan (a / b) := by
  have hb' : (0 : ℝ) < b := by exact_mod_cast hb
  rw [legAngle, Real.arctan_eq_arcsin, sqrt_one_add_div_sq hb', div_div_div_cancel_right₀ hb'.ne', add_comm]

theorem legAngle_eq_sub_arctan {a b : Nat} (ha : 0 < a) : legAngle a b = Real.pi / 2 - Real.arctan (b / a) := by
  have ha' : (0 : ℝ) < a := by exact_mod_cast ha
  rw [legAngle, Real.arcsin_eq_pi_div_two_sub_arccos, Real.arctan_eq_arccos (by positivity), sqrt_one_add_div_sq ha', inv_div]

theorem quadrantFix_near {a b : Nat} (h : 0 < a ∨ 0 < b) :
    |(quadrantFix a b : ℝ) - legAngle a b * 2 ^ fixBits| ≤ 1266 := by
  unfold quadrantFix
  split
  · next hab =>
    have hb : 0 < b := by omega
    rw [legAngle_eq_arctan hb]
    exact (atanFix_near hb hab).trans (by norm_num)
  · next hba =>
    have ha : 0 < a := by omega
    have hatan := atanFix_near ha (show b ≤ a by omega)
    have hle : Real.arctan ((b : ℝ) / a) ≤ Real.pi / 4 := by
      rw [← Real.arctan_one]
      exact Real.arctan_strictMono.monotone (div_le_one_of_le₀ (by exact_mod_cast (by omega : b ≤ a)) (Nat.cast_nonneg a))
    rw [legAngle_eq_sub_arctan ha, sub_mul]
    refine (natSub_near halfPiFix_near hatan ?_).trans (by norm_num)
    have hunit := fixUnit_large
    nlinarith [Real.pi_gt_three]

/-! ## The track (R723) -/

/-- The angle of the vector from north towards east, in [0, 2π). -/
noncomputable def compassAngle (ew ns : ℤ) : ℝ :=
  if Complex.arg ⟨ns, ew⟩ < 0 then Complex.arg ⟨ns, ew⟩ + 2 * Real.pi else Complex.arg ⟨ns, ew⟩

theorem legAngle_natAbs (ew ns : ℤ) : legAngle ew.natAbs ns.natAbs = Real.arcsin (|(ew : ℝ)| / ‖(⟨ns, ew⟩ : ℂ)‖) := by
  rw [legAngle, Complex.norm_eq_sqrt_sq_add_sq, Nat.cast_natAbs, Nat.cast_natAbs, Int.cast_abs, Int.cast_abs, sq_abs, sq_abs,
    add_comm]

theorem legAngle_natAbs_of_nonneg {ew : ℤ} (ns : ℤ) (h : 0 ≤ ew) :
    Real.arcsin (ew / ‖(⟨ns, ew⟩ : ℂ)‖) = legAngle ew.natAbs ns.natAbs := by
  rw [legAngle_natAbs, abs_of_nonneg (by exact_mod_cast h)]

theorem legAngle_natAbs_of_neg {ew : ℤ} (ns : ℤ) (h : ew < 0) :
    Real.arcsin (ew / ‖(⟨ns, ew⟩ : ℂ)‖) = -legAngle ew.natAbs ns.natAbs := by
  rw [legAngle_natAbs, abs_of_neg (by exact_mod_cast h), neg_div, Real.arcsin_neg, neg_neg]

theorem legAngle_pos {a : Nat} (ha : 0 < a) (b : Nat) : 0 < legAngle a b := Real.arcsin_pos.mpr (by positivity)

/-- The four quadrants, as `trackFix` tells them apart. -/
theorem compassAngle_eq (ew ns : ℤ) :
    compassAngle ew ns =
      if 0 ≤ ew then (if 0 ≤ ns then legAngle ew.natAbs ns.natAbs else Real.pi - legAngle ew.natAbs ns.natAbs)
      else (if 0 ≤ ns then 2 * Real.pi - legAngle ew.natAbs ns.natAbs else Real.pi + legAngle ew.natAbs ns.natAbs) := by
  have hle := legAngle_le ew.natAbs ns.natAbs
  have hnonneg := legAngle_nonneg ew.natAbs ns.natAbs
  have hpi := Real.pi_pos
  unfold compassAngle
  rcases le_or_gt 0 ew with hew | hew <;> rcases le_or_gt 0 ns with hns | hns
  · rw [Complex.arg_of_re_nonneg (Int.cast_nonneg hns), legAngle_natAbs_of_nonneg ns hew, if_pos hew, if_pos hns,
      if_neg (by linarith)]
  · rw [Complex.arg_of_re_neg_of_im_nonneg (Int.cast_lt_zero.mpr hns) (Int.cast_nonneg hew), Complex.neg_im, neg_div,
      Real.arcsin_neg, legAngle_natAbs_of_nonneg ns hew, if_pos hew, if_neg hns.not_ge, if_neg (by linarith)]
    ring
  · have hpos := legAngle_pos (show 0 < ew.natAbs by omega) ns.natAbs
    rw [Complex.arg_of_re_nonneg (Int.cast_nonneg hns), legAngle_natAbs_of_neg ns hew, if_neg hew.not_ge, if_pos hns,
      if_pos (by linarith)]
    ring
  · rw [Complex.arg_of_re_neg_of_im_neg (Int.cast_lt_zero.mpr hns) (Int.cast_lt_zero.mpr hew), Complex.neg_im, neg_div,
      Real.arcsin_neg, legAngle_natAbs_of_neg ns hew, if_neg hew.not_ge, if_neg hns.not_ge, if_pos (by linarith)]
    ring

theorem trackFix_near (ew ns : ℤ) : |(trackFix ew ns : ℝ) - compassAngle ew ns * 2 ^ fixBits| ≤ 4642 := by
  have hpi := piFix_near
  have hle := legAngle_le ew.natAbs ns.natAbs
  have hunit := fixUnit_large
  have hpi3 := Real.pi_gt_three
  rw [compassAngle_eq]
  unfold trackFix
  split
  · next hzero => simp [hzero, legAngle]
  · next hlegs =>
    have hq := quadrantFix_near (a := ew.natAbs) (b := ns.natAbs) (by omega)
    dsimp only
    split_ifs
    · exact hq.trans (by norm_num)
    · rw [sub_mul]
      exact (natSub_near hpi hq (by nlinarith)).trans (by norm_num)
    · rw [sub_mul, mul_assoc]
      exact (natSub_near (natDouble_near hpi) hq (by nlinarith)).trans (by norm_num)
    · rw [add_mul]
      exact (natAdd_near hpi hq).trans (by norm_num)

/-- Away from north on the west side, where the angle stays below 2π. -/
theorem compassAngle_le {ew ns : ℤ} (hew : ew.natAbs ≤ 2 ^ 13) (hns : ns.natAbs ≤ 2 ^ 13) :
    compassAngle ew ns ≤ 2 * Real.pi - 1 / 2 ^ 14 := by
  have hle := legAngle_le ew.natAbs ns.natAbs
  have hpi3 := Real.pi_gt_three
  rw [compassAngle_eq]
  split_ifs with heast hnorth
  · linarith
  · linarith [legAngle_nonneg ew.natAbs ns.natAbs]
  · have hroot : √((ew.natAbs : ℝ) ^ 2 + (ns.natAbs : ℝ) ^ 2) ≤ 2 ^ 14 := by
      refine Real.sqrt_le_iff.mpr ⟨by norm_num, ?_⟩
      have hew' : (ew.natAbs : ℝ) ≤ 2 ^ 13 := by exact_mod_cast hew
      have hns' : (ns.natAbs : ℝ) ≤ 2 ^ 13 := by exact_mod_cast hns
      have := pow_le_pow_left₀ (Nat.cast_nonneg _) hew' 2
      have := pow_le_pow_left₀ (Nat.cast_nonneg _) hns' 2
      linarith
    have hone : (1 : ℝ) ≤ ew.natAbs := by exact_mod_cast (by omega : 1 ≤ ew.natAbs)
    have hleg := div_le_legAngle ew.natAbs ns.natAbs
    have hdiv : 1 / 2 ^ 14 ≤ (ew.natAbs : ℝ) / √((ew.natAbs : ℝ) ^ 2 + (ns.natAbs : ℝ) ^ 2) :=
      div_le_div₀ (by positivity) hone (by positivity) hroot
    linarith
  · linarith

/-! ## The rounded track and heading -/

/-- A fixed-point number near an angle rounds to an angle, as near as a binary64 number of its size can be. -/
theorem f64Ratio_angle {n d : Nat} (hd : 0 < d) {angle : ℝ} (hnear : |(n : ℝ) - angle * d| ≤ 1 / 2 ^ 80 * d)
    (hangle : angle ≤ 2 * Real.pi - 1 / 2 ^ 14) :
    f64IsAngle (f64Ratio n d) = true ∧ |(f64Value (f64Ratio n d) : ℝ) - angle| ≤ 1 / 2 ^ 50 := by
  have hd' : (0 : ℝ) < d := by exact_mod_cast hd
  have hdiv : |(n : ℝ) / d - angle| ≤ 1 / 2 ^ 80 := by
    rwa [← mul_div_cancel_right₀ angle hd'.ne', ← sub_div, abs_div, abs_of_pos hd', div_le_iff₀ hd']
  have hx : (n : ℝ) / d < 0x1921FB54442D17 / 2 ^ 50 := by
    have hpi := Real.pi_lt_d6
    have hupper := (abs_le.mp hdiv).2
    linarith
  refine ⟨f64IsAngle_f64Ratio hd hx, ?_⟩
  calc |(f64Value (f64Ratio n d) : ℝ) - angle| ≤ |(f64Value (f64Ratio n d) : ℝ) - n / d| + |(n : ℝ) / d - angle| :=
        abs_sub_le _ _ _
    _ ≤ 1 / 2 ^ 51 + 1 / 2 ^ 80 := add_le_add (f64Ratio_near hd (hx.trans (by norm_num))) hdiv
    _ ≤ 1 / 2 ^ 50 := by norm_num

theorem f64Track_spec {ew ns : ℤ} (hew : ew.natAbs ≤ 2 ^ 13) (hns : ns.natAbs ≤ 2 ^ 13) :
    f64IsAngle (f64Track ew ns) = true ∧ |(f64Value (f64Track ew ns) : ℝ) - compassAngle ew ns| ≤ 1 / 2 ^ 50 := by
  refine f64Ratio_angle (by positivity) ?_ (compassAngle_le hew hns)
  push_cast
  refine (trackFix_near ew ns).trans ?_
  have hunit := fixUnit_large
  linarith

theorem f64Heading_spec {k : Nat} (hk : k < 1024) :
    f64IsAngle (f64Heading k) = true ∧ |(f64Value (f64Heading k) : ℝ) - 2 * Real.pi * k / 1024| ≤ 1 / 2 ^ 50 := by
  have hk' : (k : ℝ) ≤ 1023 := by exact_mod_cast Nat.le_of_lt_succ hk
  have hk0 : (0 : ℝ) ≤ k := Nat.cast_nonneg k
  refine f64Ratio_angle (by positivity) ?_ ?_
  · have hunit := fixUnit_large
    have hsplit : ((2 * piFix * k : ℕ) : ℝ) - 2 * Real.pi * k / 1024 * (1024 * 2 ^ fixBits : ℕ) =
        2 * k * (piFix - Real.pi * 2 ^ fixBits) := by
      push_cast
      ring
    rw [hsplit, abs_mul, abs_of_nonneg (by positivity)]
    calc 2 * k * |(piFix : ℝ) - Real.pi * 2 ^ fixBits| ≤ 2 * 1023 * 1688 :=
          mul_le_mul (by linarith) piFix_near (abs_nonneg _) (by norm_num)
      _ ≤ 1 / 2 ^ 80 * (1024 * 2 ^ fixBits : ℕ) := by
          push_cast
          linarith
  · have hpi := Real.pi_gt_three
    have hmul : Real.pi * k ≤ Real.pi * 1023 := by gcongr
    linarith

/-! ## The axes and the quarter turns -/

theorem atanSum_zero (y2 s2 fuel n : Nat) : atanSum y2 s2 fuel n 0 = 0 := by
  induction fuel generalizing n with
  | zero => rfl
  | succ fuel ih => rw [atanSum, zero_mul, Nat.zero_div, ih]

theorem atanFix_zero (x : Nat) : atanFix 0 x = 0 := by
  rw [atanFix, Nat.mul_zero x, Nat.zero_mul (2 ^ fixBits), Nat.zero_div, atanSum_zero]

theorem quadrantFix_north (b : Nat) : quadrantFix 0 b = 0 := by
  rw [quadrantFix, if_pos (Nat.zero_le b), atanFix_zero]

theorem quadrantFix_east {a : Nat} (ha : 0 < a) : quadrantFix a 0 = piFix / 2 := by
  rw [quadrantFix, if_neg ha.not_ge, atanFix_zero, Nat.sub_zero]

theorem f64Track_north {ns : ℤ} (hns : 0 ≤ ns) : f64Track 0 ns = 0#64 := by
  have hfix : trackFix 0 ns = 0 := by
    unfold trackFix
    split
    · rfl
    · simp [quadrantFix_north]
  rw [f64Track, hfix, f64Ratio, if_pos rfl]

theorem f64Track_east {ew : ℤ} (hew : 0 < ew) : f64Track ew 0 = 0x3FF921FB54442D18#64 := by
  have hfix : trackFix ew 0 = piFix / 2 := by
    simp [trackFix, hew.ne', hew.le, quadrantFix_east (Int.natAbs_pos.mpr hew.ne')]
  rw [f64Track, hfix]
  decide +kernel

theorem f64Track_south {ns : ℤ} (hns : ns < 0) : f64Track 0 ns = 0x400921FB54442D18#64 := by
  have hfix : trackFix 0 ns = piFix := by
    simp [trackFix, hns.ne, hns.not_ge, quadrantFix_north]
  rw [f64Track, hfix]
  decide +kernel

theorem f64Track_west {ew : ℤ} (hew : ew < 0) : f64Track ew 0 = 0x4012D97C7F3321D2#64 := by
  have hfix : trackFix ew 0 = 2 * piFix - piFix / 2 := by
    simp [trackFix, hew.ne, hew.not_ge, quadrantFix_east (Int.natAbs_pos.mpr hew.ne)]
  rw [f64Track, hfix]
  decide +kernel

theorem f64Heading_zero : f64Heading 0 = 0#64 := by
  rw [f64Heading, Nat.mul_zero, f64Ratio, if_pos rfl]

theorem f64Heading_quarters : f64Heading 256 = 0x3FF921FB54442D18#64 ∧ f64Heading 512 = 0x400921FB54442D18#64 ∧
    f64Heading 768 = 0x4012D97C7F3321D2#64 := by
  decide +kernel

end Sys2Proof.Machine
end

section
/-! PROOFS. The velocity decoder and the checks that its messages, and all others, pass: 46_classify_ident_velocity.md R703 and R720
to R732, 49_tracker.md R857. -/

namespace Sys2Proof.Machine

/-- The factor of a subtype is 1, or an option of 3 bits (R20). -/
theorem factor_le {first second : Prop} {factor : Nat} {option : BitVec 3}
    (h : (first ∧ factor = 1) ∨ (second ∧ factor = option.toNat)) : factor ≤ 7 := by
  obtain ⟨_, rfl⟩ | ⟨_, rfl⟩ := h
  · decide
  · exact Nat.le_of_lt_succ option.isLt

/-! ## Ground speed (R721 to R725) -/

theorem velocityComponent_eq {v : BitVec 10} (hv : v ≠ 0#10) (sign : Bool) (factor : Nat) :
    velocityComponent v sign factor = ((v.toNat : ℤ) - 1) * factor * (if sign then -1 else 1) := by
  have hpos : 1 ≤ v.toNat := Nat.one_le_iff_ne_zero.mpr fun hzero => hv (BitVec.eq_of_toNat_eq hzero)
  cases sign <;> simp [velocityComponent, Nat.cast_sub hpos]

/-- A component has at most 10 bits, and a factor 3. -/
theorem velocityComponent_natAbs_le (v : BitVec 10) (sign : Bool) {factor : Nat} (hfactor : factor ≤ 7) :
    (velocityComponent v sign factor).natAbs ≤ 2 ^ 13 := by
  have hmul : (v.toNat - 1) * factor ≤ 1022 * 7 := Nat.mul_le_mul (by omega) hfactor
  unfold velocityComponent
  split <;> omega

theorem f64GroundSpeed_spec {ew ns : ℤ} (hew : ew.natAbs ≤ 2 ^ 13) (hns : ns.natAbs ≤ 2 ^ 13) :
    (f64GroundSpeed ew ns).msb = false ∧
      isF64Of (f64GroundSpeed ew ns) (Real.sqrt ((ew : ℝ) ^ 2 + (ns : ℝ) ^ 2) * (463 / 900)) := by
  have hsum : (ew * ew + ns * ns).toNat = ew.natAbs * ew.natAbs + ns.natAbs * ns.natAbs := by
    rw [← Int.natAbs_mul_self, ← Int.natAbs_mul_self (a := ns)]
    exact Int.toNat_natCast _
  have hroot : √((ew : ℝ) ^ 2 + (ns : ℝ) ^ 2) * (463 / 900) =
      √(((ew * ew + ns * ns).toNat * (Config.knotNum * Config.knotNum) : ℕ)) / Config.knotDen := by
    have hcast : (((ew * ew + ns * ns).toNat : ℕ) : ℝ) = (ew : ℝ) ^ 2 + (ns : ℝ) ^ 2 := by
      rw [hsum]
      push_cast [Nat.cast_natAbs]
      rw [abs_mul_abs_self, abs_mul_abs_self, sq, sq]
    rw [Nat.cast_mul, hcast, Real.sqrt_mul (by positivity), Nat.cast_mul, Real.sqrt_mul_self (Nat.cast_nonneg _), mul_div_assoc]
    norm_num [Config.knotNum, Config.knotDen]
  rw [hroot]
  refine isF64Of_f64SqrtRatio (by decide) (by decide) ?_
  have hew2 := Nat.mul_le_mul hew hew
  have hns2 := Nat.mul_le_mul hns hns
  rw [hsum]
  norm_num [Config.knotNum, Config.knotDen] at hew2 hns2 ⊢
  omega

/-! ## Airspeed (R730, R731) -/

theorem f64Knots_spec {k : Nat} (hk : k ≤ 2 ^ 13) :
    (f64Knots k).msb = false ∧ isF64Of (f64Knots k) ((k : ℝ) * (463 / 900)) := by
  have hvalue : (k : ℝ) * (463 / 900) = ((k * Config.knotNum : ℕ) : ℝ) / Config.knotDen := by
    push_cast [Config.knotNum, Config.knotDen]
    ring
  have hk' : (k : ℝ) ≤ 2 ^ 13 := by exact_mod_cast hk
  have hlt : (k : ℝ) * (463 / 900) < 2 ^ (53 : ℤ) := by
    rw [zpow_ofNat]
    linarith
  rw [hvalue] at hlt ⊢
  exact isF64Of_f64Ratio (by decide) (lt_overflow_bound hlt)

/-! ## The paths of the velocity decoder, from the fields of ME -/

section Paths

variable {f : Frame} (h : f.bytes.length = 14) {factor : Nat}
include h

theorem zeroField_iff {lo hi : Nat} (hw : hi - lo + 1 = 10) : f.me.extractLsb' lo 10 = 0#10 ↔ meField f hi lo = 0 :=
  extractLsb'_me_eq_iff h hw

/-- A component from its 10 bits at `lo` and its sign bit above them (R721). -/
theorem velocityComponent_me {lo hi k : Nat} (hw : hi - lo + 1 = 10) (hfield : meField f hi lo ≠ 0) :
    velocityComponent (f.me.extractLsb' lo 10) (f.me.getLsbD k) factor =
      ((meField f hi lo : ℤ) - 1) * factor * (if meField f k k = 1 then -1 else 1) := by
  have hne := mt (zeroField_iff h hw).mp hfield
  simp only [velocityComponent_eq hne, extractLsb'_me_toNat h hw, getLsbD_me h, decide_eq_true_eq]

theorem decodeGroundSpeed_no_data (hfield : meField f 41 32 = 0 ∨ meField f 30 21 = 0) :
    decodeGroundSpeed f f.me factor = .discard .discVelNodata := by
  exact if_pos (hfield.imp (zeroField_iff h rfl).mpr (zeroField_iff h rfl).mpr)

theorem decodeGroundSpeed_components (hwest : meField f 41 32 ≠ 0) (hnorth : meField f 30 21 ≠ 0) {ew ns : ℤ}
    (hew : ew = ((meField f 41 32 : ℤ) - 1) * factor * (if meField f 42 42 = 1 then -1 else 1))
    (hns : ns = ((meField f 30 21 : ℤ) - 1) * factor * (if meField f 31 31 = 1 then -1 else 1)) :
    decodeGroundSpeed f f.me factor = .message (.velocity f.ts f.icao (f64GroundSpeed ew ns) (f64Track ew ns)) := by
  have hdata := not_or.mpr ⟨mt (zeroField_iff h rfl).mp hwest, mt (zeroField_iff h rfl).mp hnorth⟩
  rw [decodeGroundSpeed, if_neg hdata, velocityComponent_me h rfl hwest, velocityComponent_me h rfl hnorth, ← hew, ← hns]

theorem decodeAirspeed_no_heading (hheading : meField f 42 42 = 0) :
    decodeAirspeed f f.me factor = .discard .discHeading := by
  have hbit : f.me.getLsbD 42 = false := by rw [getLsbD_me h, hheading]; rfl
  exact if_pos hbit

theorem decodeAirspeed_of_heading (hheading : meField f 42 42 = 1) :
    decodeAirspeed f f.me factor =
      if f.me.extractLsb' 21 10 = 0#10 then .discard .discAirspeed
      else .message (.velocity f.ts f.icao (f64Knots ((meField f 30 21 - 1) * factor)) (f64Heading (meField f 41 32))) := by
  have hbit : ¬f.me.getLsbD 42 = false := by rw [getLsbD_me h, hheading]; decide
  rw [decodeAirspeed, if_neg hbit, extractLsb'_me_toNat h (hi := 30) rfl, extractLsb'_me_toNat h (hi := 41) rfl]

theorem decodeAirspeed_no_airspeed (hheading : meField f 42 42 = 1) (hspeed : meField f 30 21 = 0) :
    decodeAirspeed f f.me factor = .discard .discAirspeed := by
  rw [decodeAirspeed_of_heading h hheading, if_pos ((zeroField_iff h rfl).mpr hspeed)]

theorem decodeAirspeed_message (hheading : meField f 42 42 = 1) (hspeed : meField f 30 21 ≠ 0) :
    decodeAirspeed f f.me factor =
      .message (.velocity f.ts f.icao (f64Knots ((meField f 30 21 - 1) * factor)) (f64Heading (meField f 41 32))) := by
  rw [decodeAirspeed_of_heading h hheading, if_neg (mt (zeroField_iff h rfl).mp hspeed)]

end Paths

theorem meField_lt (f : Frame) (hi lo : Nat) : meField f hi lo < 2 ^ (hi - lo + 1) := Nat.mod_lt _ (by positivity)

/-! ## The checks of `TRK.UPDATE` (R703, R857) -/

theorem checkMsg_toOperand {m : Message} (h : messageOk m) : checkMsg m.toOperand = .done m := by
  have hts : tsNegative m.ts = false := Bool.eq_false_iff.mpr (mt tsNegative_iff.mp (Nat.not_le.mpr h.ts_small))
  cases m with
  | ident ts icao category callSign =>
    obtain ⟨_, hlength, hchars⟩ := h
    change tsNegative ts = false at hts
    simp [checkMsg, Message.toOperand, hts, Nat.not_lt.mpr hlength, hchars]
  | position p =>
    obtain ⟨ts, icao, altitudeM, parity, x, y⟩ := p
    obtain ⟨_, haltitude⟩ := h
    change tsNegative ts = false at hts
    change f64IsNaN altitudeM = false at haltitude
    cases parity <;> simp [checkMsg, Message.toOperand, hts, haltitude]
  | velocity ts icao speedMps trackRad =>
    obtain ⟨_, hspeed, htrack⟩ := h
    change tsNegative ts = false at hts
    simp [checkMsg, Message.toOperand, hts, hspeed, htrack]

/-- What a decoder answers is a discard, or a message that holds what R145 asks. -/
def Decoded.ok : Decoded → Prop
  | .message m => messageOk m
  | .discard _ => True

section Ok

variable {f : Frame} (hts : f.ts.toNat < 2 ^ 63)
include hts

theorem decodeIdent_ok (o : Config.Options) (tc : BitVec 5) (me : Me) : (decodeIdent o f tc me).ok := by
  unfold decodeIdent
  dsimp only
  split
  · trivial
  · next hgood =>
    have hsub := trimCallSign_sublist o.trim (identChars me)
    refine ⟨hts, hsub.length_le, List.all_eq_true.mpr fun c hc => ?_⟩
    have hmem := hsub.subset hc
    obtain ⟨k, _, rfl⟩ := List.mem_map.mp hmem
    exact (alphabet_invalid_or_callSignChar _).resolve_left fun hbad => hgood (List.contains_iff_mem.mpr (hbad ▸ hmem))

theorem decodePosition_ok (me : Me) : (decodePosition f me).ok := by
  unfold decodePosition
  split
  · trivial
  · exact ⟨hts, f64IsNaN_f64Signed _ _⟩

theorem decodeGroundSpeed_ok (me : Me) {factor : Nat} (hfactor : factor ≤ 7) : (decodeGroundSpeed f me factor).ok := by
  unfold decodeGroundSpeed
  dsimp only
  split
  · trivial
  · exact ⟨hts, f64NonNeg_of_toNat_le (f64SqrtRatio_toNat_le _ _),
      (f64Track_spec (velocityComponent_natAbs_le _ _ hfactor) (velocityComponent_natAbs_le _ _ hfactor)).1⟩

theorem decodeAirspeed_ok (me : Me) (factor : Nat) : (decodeAirspeed f me factor).ok := by
  unfold decodeAirspeed
  dsimp only
  split
  · trivial
  · split
    · trivial
    · exact ⟨hts, f64NonNeg_of_toNat_le (f64Ratio_toNat_le _ _), (f64Heading_spec (BitVec.isLt _)).1⟩

theorem decodeVelocity_ok (o : Config.Options) (me : Me) : (decodeVelocity o f me).ok := by
  have hgs : o.gsFactorSt2.toNat ≤ 7 := Nat.le_of_lt_succ o.gsFactorSt2.isLt
  unfold decodeVelocity
  dsimp only
  split_ifs
  · exact decodeGroundSpeed_ok hts me (by decide)
  · exact decodeGroundSpeed_ok hts me hgs
  · exact decodeAirspeed_ok hts me _
  · exact decodeAirspeed_ok hts me _
  · trivial

theorem decodeFrame_ok (o : Config.Options) : (decodeFrame o f).ok := by
  unfold decodeFrame
  dsimp only
  split_ifs
  · exact decodeIdent_ok hts o _ _
  · exact decodeVelocity_ok hts o _
  · exact decodePosition_ok hts _
  · trivial

end Ok

end Sys2Proof.Machine

namespace Sys2Proof.Proofs

open Sys2Proof Sys2Proof.Machine

/-- Settles O42: every decoder's message holds what R145 asks of it, and that is what the checks ask. -/
theorem decodedMessagesPassTheChecks : Obligations.DecodedMessagesPassTheChecks := by
  unfold Obligations.DecodedMessagesPassTheChecks
  intro o f m hts hm
  have hok := decodeFrame_ok hts o
  rw [hm] at hok
  exact checkMsg_toOperand hok

/-- Settles O39: the speed is a correctly rounded root, the track a rounded fixed-point angle near the exact one. -/
theorem groundVelocityIsDecoded : Obligations.GroundVelocityIsDecoded := by
  unfold Obligations.GroundVelocityIsDecoded
  intro s f factor hready hframe hlength htc hst
  have hpath := (decodeFrame_of_velocity hlength s.cfg htc).trans (decodeVelocity_of_ground hlength s.cfg hst)
  refine ⟨fun hfield => msgDecode_discard hready hframe (hpath.trans (decodeGroundSpeed_no_data hlength hfield)), ?_⟩
  intro ew ns hwest hnorth hew hns
  have hfactor := factor_le hst
  have hew' : ew.natAbs ≤ 2 ^ 13 := by
    rw [hew, ← velocityComponent_me hlength rfl hwest]
    exact velocityComponent_natAbs_le _ _ hfactor
  have hns' : ns.natAbs ≤ 2 ^ 13 := by
    rw [hns, ← velocityComponent_me hlength rfl hnorth]
    exact velocityComponent_natAbs_le _ _ hfactor
  obtain ⟨hsign, hspeed⟩ := f64GroundSpeed_spec hew' hns'
  obtain ⟨hangle, hnear⟩ := f64Track_spec hew' hns'
  refine ⟨_, _, msgDecode_message hready hframe (hpath.trans (decodeGroundSpeed_components hlength hwest hnorth hew hns)),
    hspeed, hsign, hangle, fun h hh => hh ▸ hnear, ?_, ?_, ?_, ?_⟩
  · rintro rfl hns
    exact f64Track_north hns
  · rintro hew rfl
    exact f64Track_east hew
  · rintro rfl hns
    exact f64Track_south hns
  · rintro hew rfl
    exact f64Track_west hew

/-- Settles O40: the speed is a correctly rounded fraction, the heading a rounded fixed-point angle near the exact one. -/
theorem airVelocityIsDecoded : Obligations.AirVelocityIsDecoded := by
  unfold Obligations.AirVelocityIsDecoded
  intro s f factor hready hframe hlength htc hst
  have hpath := (decodeFrame_of_velocity hlength s.cfg htc).trans (decodeVelocity_of_air hlength s.cfg hst)
  refine ⟨fun hheading => msgDecode_discard hready hframe (hpath.trans (decodeAirspeed_no_heading hlength hheading)),
    fun hheading hfield => msgDecode_discard hready hframe (hpath.trans (decodeAirspeed_no_airspeed hlength hheading hfield)),
    fun hheading hfield => ?_⟩
  have hfactor := factor_le hst
  have hlt := meField_lt f 30 21
  have hknots : (meField f 30 21 - 1) * factor ≤ 2 ^ 13 :=
    (Nat.mul_le_mul (show meField f 30 21 - 1 ≤ 1022 by omega) hfactor).trans (by decide)
  obtain ⟨hsign, hspeed⟩ := f64Knots_spec hknots
  obtain ⟨hangle, hnear⟩ := f64Heading_spec (meField_lt f 41 32)
  obtain ⟨hquarter, hhalf, hthree⟩ := f64Heading_quarters
  have haxis {k : Nat} {b : F64} (hk : f64Heading k = b) (h : meField f 41 32 = k) : f64Heading (meField f 41 32) = b :=
    (congrArg f64Heading h).trans hk
  rw [Nat.cast_mul, Nat.cast_pred (Nat.pos_of_ne_zero hfield)] at hspeed
  exact ⟨_, _, msgDecode_message hready hframe (hpath.trans (decodeAirspeed_message hlength hheading hfield)),
    hspeed, hsign, hangle, hnear, haxis f64Heading_zero, haxis hquarter, haxis hhalf, haxis hthree⟩

end Sys2Proof.Proofs
end

section
/-! PROOFS. The Gray code: 47_position_altitude.md R765 and R766. Each bit of the XOR cascade is a parity, and the parities of a
Gray code telescope. -/

namespace Sys2Proof.Machine

/-! ## The exclusive or of a stretch of bits -/

/-- The exclusive or of `n` bits of `v`, from bit `j` up. -/
def bitParity (v : BitVec 16) (j n : Nat) : Bool := (List.range n).foldl (fun acc i => acc ^^ v.getLsbD (j + i)) false

@[simp] theorem bitParity_zero (v : BitVec 16) (j : Nat) : bitParity v j 0 = false := rfl

theorem bitParity_succ (v : BitVec 16) (j n : Nat) : bitParity v j (n + 1) = (bitParity v j n ^^ v.getLsbD (j + n)) := by
  rw [bitParity, List.range_succ, List.foldl_append]
  rfl

theorem toNat_lt_two_pow_iff (v : BitVec 16) (n : Nat) : v.toNat < 2 ^ n ↔ ∀ i, n ≤ i → v.getLsbD i = false :=
  ⟨fun h _ hi => Nat.testBit_lt_two_pow (h.trans_le (Nat.pow_le_pow_right (by decide) hi)), Nat.lt_pow_two_of_testBit _⟩

/-- Bits that are 0 add nothing to a parity. -/
theorem bitParity_of_le {v : BitVec 16} {j n m : Nat} (hv : ∀ i, j + n ≤ i → v.getLsbD i = false) (h : n ≤ m) :
    bitParity v j m = bitParity v j n := by
  induction m, h using Nat.le_induction with
  | base => rfl
  | succ m hm ih => rw [bitParity_succ, ih, hv (j + m) (by omega), Bool.xor_false]

/-! ## The Gray code (R765, R766) -/

theorem getLsbD_grayEncode (v : BitVec 16) (j : Nat) : (grayEncode v).getLsbD j = (v.getLsbD j ^^ v.getLsbD (j + 1)) := by
  rw [grayEncode, BitVec.getLsbD_xor, BitVec.getLsbD_ushiftRight, Nat.add_comm]

/-- The cascade over `n` bits takes the parity of the `n` bits from each one up. -/
theorem getLsbD_grayCascade (v : BitVec 16) (n j : Nat) : (grayCascade v (n + 1)).getLsbD j = bitParity v j (n + 1) := by
  induction n with
  | zero => simp [bitParity_succ, grayCascade]
  | succ n ih =>
    rw [bitParity_succ, ← ih, grayCascade, Nat.add_sub_cancel, List.range_succ, List.foldl_append, List.foldl_cons,
      List.foldl_nil, BitVec.getLsbD_xor, BitVec.getLsbD_ushiftRight, Nat.add_comm (n + 1) j]
    rfl

/-- The parities of a Gray code telescope. -/
theorem bitParity_grayEncode (v : BitVec 16) (j n : Nat) :
    bitParity (grayEncode v) j n = (v.getLsbD j ^^ v.getLsbD (j + n)) := by
  induction n with
  | zero => simp
  | succ n ih => simp [bitParity_succ, ih, getLsbD_grayEncode, Nat.add_assoc]

theorem bitParity_xor_next (v : BitVec 16) (j n : Nat) :
    (bitParity v j n ^^ bitParity v (j + 1) n) = (v.getLsbD j ^^ v.getLsbD (j + n)) := by
  induction n with
  | zero => simp
  | succ n ih =>
    rw [bitParity_succ, bitParity_succ, Bool.xor_assoc, Bool.xor_left_comm (v.getLsbD _), ← Bool.xor_assoc, ih,
      Nat.add_right_comm j 1 n]
    simp [Nat.add_assoc]

theorem grayEncode_lt {v : BitVec 16} {n : Nat} (hv : v.toNat < 2 ^ n) : (grayEncode v).toNat < 2 ^ n := by
  simp only [toNat_lt_two_pow_iff, getLsbD_grayEncode] at hv ⊢
  intro i hi
  rw [hv i hi, hv (i + 1) (by omega), Bool.xor_false]

theorem grayCascade_lt {v : BitVec 16} {m n : Nat} (hv : v.toNat < 2 ^ m) (hn : 1 ≤ n) : (grayCascade v n).toNat < 2 ^ m := by
  obtain ⟨n, rfl⟩ := Nat.exists_eq_add_of_le' hn
  rw [toNat_lt_two_pow_iff] at hv ⊢
  intro j hj
  rw [getLsbD_grayCascade, bitParity_of_le (fun i hi => hv i (by omega)) (Nat.zero_le _), bitParity_zero]

section Inverse

variable {v : BitVec 16} {n : Nat} (hn : 1 ≤ n) (hv : v.toNat < 2 ^ n)
include hn hv

theorem grayCascade_grayEncode : grayCascade (grayEncode v) n = v := by
  obtain ⟨n, rfl⟩ := Nat.exists_eq_add_of_le' hn
  rw [toNat_lt_two_pow_iff] at hv
  refine BitVec.eq_of_getLsbD_eq fun j _ => ?_
  rw [getLsbD_grayCascade, bitParity_grayEncode, hv (j + (n + 1)) (by omega), Bool.xor_false]

theorem grayEncode_grayCascade : grayEncode (grayCascade v n) = v := by
  obtain ⟨n, rfl⟩ := Nat.exists_eq_add_of_le' hn
  rw [toNat_lt_two_pow_iff] at hv
  refine BitVec.eq_of_getLsbD_eq fun j _ => ?_
  rw [getLsbD_grayEncode, getLsbD_grayCascade, getLsbD_grayCascade, bitParity_xor_next, hv (j + (n + 1)) (by omega),
    Bool.xor_false]

end Inverse

/-! ## How `GRAY.DECODE` ends (R765) -/

section GrayDecode

variable {s : State} (h : s.ready) {v : BitVec 16} {n : BitVec 8}
include h

theorem grayDecode_faults_width (hn : ¬(1 ≤ n.toNat ∧ n.toNat ≤ 16)) :
    faults s (.grayDecode v n) .badOperand (n.setWidth 64) := by
  rw [faults, exec, execGrayDecode, guarded_ready h, if_pos hn, State.raiseFault]

variable (hn : 1 ≤ n.toNat ∧ n.toNat ≤ 16)
include hn

theorem grayDecode_faults_value (hv : 2 ^ n.toNat ≤ v.toNat) : faults s (.grayDecode v n) .badOperand (v.setWidth 64) := by
  rw [faults, exec, execGrayDecode, guarded_ready h, if_neg (not_not_intro hn), if_pos hv, State.raiseFault]

theorem grayDecode_answers (hv : v.toNat < 2 ^ n.toNat) :
    answers s (.grayDecode v n) .ok (.bits 16 (grayCascade v n.toNat)) := by
  rw [answers, exec, execGrayDecode, guarded_ready h, if_neg (not_not_intro hn), if_neg (Nat.not_le.mpr hv), State.respond]

end GrayDecode

end Sys2Proof.Machine

namespace Sys2Proof.Proofs

open Sys2Proof Sys2Proof.Machine

/-- Settles O47: the cascade takes at each bit the parity of the code's bits from there up, and the parities of a Gray code
telescope. -/
theorem grayDecodeInvertsTheGrayCode : Obligations.GrayDecodeInvertsTheGrayCode := by
  unfold Obligations.GrayDecodeInvertsTheGrayCode
  refine ⟨fun s v n hready => ⟨grayDecode_faults_width hready, fun hpos hle => grayDecode_faults_value hready ⟨hpos, hle⟩,
    fun hpos hle hv => ⟨_, grayDecode_answers hready ⟨hpos, hle⟩ hv, fun j _ => ?_⟩⟩, fun s v n hready hpos hle hv => ?_⟩
  · obtain ⟨m, hm⟩ := Nat.exists_eq_add_of_le' hpos
    rw [hm] at hv hle ⊢
    rw [toNat_lt_two_pow_iff] at hv
    rw [getLsbD_grayCascade]
    exact (bitParity_of_le (fun i hi => hv i (by omega)) hle).symm
  · have hanswer := grayDecode_answers hready ⟨hpos, hle⟩ (grayEncode_lt hv)
    rwa [grayCascade_grayEncode hpos hv] at hanswer

end Sys2Proof.Proofs
end

section
/-! PROOFS. The altitude decoder: 47_position_altitude.md R760 to R763 and 30_encoding.md R325. Bits gathered by their letters
are the code whose bits stand there, and no altitude is far from 0. -/

namespace Sys2Proof.Machine

/-! ## Gathered bits (R325) -/

/-- The bits of the altitude field named D1 D2 D4 A1 A2 A4 B1 B2 B4. -/
def coarseBits : List Nat := [4, 2, 0, 10, 8, 6, 5, 3, 1]

/-- The bits named C1 C2 C4. -/
def fineBits : List Nat := [11, 9, 7]

theorem gatherBits_concat (a : BitVec 12) (bits : List Nat) (i : Nat) :
    gatherBits a (bits ++ [i]) = (gatherBits a bits <<< 1) ||| (BitVec.ofBool (a.getLsbD i)).setWidth 16 := by
  rw [gatherBits, List.foldl_append]
  rfl

/-- The last named bit is the least significant one. -/
theorem getLsbD_gatherBits (a : BitVec 12) (bits : List Nat) {k : Nat} (hk : k < 16) :
    (gatherBits a bits).getLsbD k = (bits.map a.getLsbD).reverse.getD k false := by
  induction bits using List.reverseRecOn generalizing k with
  | nil => simp [gatherBits]
  | append_singleton bits i ih =>
    rw [gatherBits_concat, BitVec.getLsbD_or, BitVec.getLsbD_shiftLeft, BitVec.getLsbD_setWidth, List.map_append,
      List.reverse_append]
    cases k with
    | zero => simp
    | succ k => simp [hk, ih (k := k) (by omega)]

/-- Bits gathered where a code of `n` bits stands, most significant bit first, are that code. -/
theorem gatherBits_eq_of_map_eq {a : BitVec 12} {bits : List Nat} {c : BitVec 16} {n : Nat} (hc : c.toNat < 2 ^ n)
    (h : bits.map a.getLsbD = (List.range n).map fun k => c.getLsbD (n - 1 - k)) : gatherBits a bits = c := by
  rw [toNat_lt_two_pow_iff] at hc
  refine BitVec.eq_of_getLsbD_eq fun k hk => ?_
  rw [getLsbD_gatherBits a bits hk, h]
  by_cases hkn : k < n
  · rw [List.getD_eq_getElem _ _ (by simpa using hkn), List.getElem_reverse]
    simp only [List.length_map, List.length_range, List.getElem_map, List.getElem_range]
    congr 1
    omega
  · rw [List.getD_eq_default _ _ (by simpa using hkn), hc k (by omega)]

/-! ## The two encodings -/

section Encodings

variable {a : BitVec 12}

theorem altitudeFt_of_q (h : a.getLsbD 4 = true) : altitudeFt a = some (qAltitude a) := if_pos h

theorem altitudeFt_of_gillham (h : a.getLsbD 4 = false) : altitudeFt a = gillham a := by
  rw [altitudeFt, if_neg (Bool.not_eq_true _ ▸ h)]

theorem qAltitude_eq (a : BitVec 12) : qAltitude a = max 0 (25 * ((a.toNat / 32 * 16 + a.toNat % 16 : ℕ) : ℤ) - 1000) := by
  have hdiv : a.toNat / 32 % 128 = a.toNat / 32 := Nat.mod_eq_of_lt (by omega)
  have hn : (a.extractLsb' 5 7 ++ a.extractLsb' 0 4 : BitVec 11).toNat = a.toNat / 32 * 16 + a.toNat % 16 := by
    rw [BitVec.toNat_append, ← Nat.shiftLeft_add_eq_or_of_lt (BitVec.isLt _), Nat.shiftLeft_eq]
    simp [BitVec.extractLsb'_toNat, Nat.shiftRight_eq_div_pow, hdiv]
  rw [← hn]
  rfl

theorem gillham_eq_none (h : gillhamFine a = 0 ∨ gillhamFine a = 5 ∨ gillhamFine a = 6) : gillham a = none := if_pos h

theorem gillham_eq_some (h : ¬(gillhamFine a = 0 ∨ gillhamFine a = 5 ∨ gillhamFine a = 6)) :
    gillham a = some (-1300 + 100 * gillhamRemap (gillhamCoarse a) (gillhamFine a) + 500 * (gillhamCoarse a : ℤ)) := if_neg h

theorem gillhamCoarse_eq_grayCascade (a : BitVec 12) :
    gillhamCoarse a = (grayCascade (gatherBits a coarseBits) 9).toNat := rfl

theorem gillhamFine_eq_grayCascade (a : BitVec 12) : gillhamFine a = (grayCascade (gatherBits a fineBits) 3).toNat := rfl

theorem gillhamCoarse_eq {c : BitVec 16} (hc : c.toNat < 2 ^ 9)
    (h : coarseBits.map a.getLsbD = (List.range 9).map fun k => (grayEncode c).getLsbD (8 - k)) :
    gillhamCoarse a = c.toNat := by
  rw [gillhamCoarse_eq_grayCascade, gatherBits_eq_of_map_eq (grayEncode_lt hc) h, grayCascade_grayEncode (by decide) hc]

theorem gillhamFine_eq {f : BitVec 16} (hf : f.toNat < 2 ^ 3)
    (h : fineBits.map a.getLsbD = (List.range 3).map fun k => (grayEncode f).getLsbD (2 - k)) :
    gillhamFine a = f.toNat := by
  rw [gillhamFine_eq_grayCascade, gatherBits_eq_of_map_eq (grayEncode_lt hf) h, grayCascade_grayEncode (by decide) hf]

/-- No altitude is far from 0: a coarse and a fine number have 16 bits at most. -/
theorem altitudeFt_natAbs_lt {feet : ℤ} (h : altitudeFt a = some feet) : feet.natAbs < 2 ^ 26 := by
  cases hq : a.getLsbD 4 with
  | true =>
    rw [altitudeFt_of_q hq, Option.some.injEq, qAltitude_eq] at h
    omega
  | false =>
    have hcoarse : gillhamCoarse a < 2 ^ 16 := BitVec.isLt _
    have hfine : gillhamFine a < 2 ^ 16 := BitVec.isLt _
    rw [altitudeFt_of_gillham hq] at h
    by_cases hvalid : gillhamFine a = 0 ∨ gillhamFine a = 5 ∨ gillhamFine a = 6
    · rw [gillham_eq_none hvalid] at h
      cases h
    · rw [gillham_eq_some hvalid, Option.some.injEq, gillhamRemap] at h
      split_ifs at h <;> omega

end Encodings

/-! ## How `ALT.DECODE` ends (R760) -/

section AltDecode

variable {s : State} (h : s.ready) {a : BitVec 16}
include h

theorem altDecode_faults (ha : 0xFFF < a.toNat) : faults s (.altDecode a) .badOperand (a.setWidth 64) := by
  rw [faults, exec, execAltDecode, guarded_ready h, if_pos ha, State.raiseFault]

variable (ha : a.toNat ≤ 0xFFF)
include ha

theorem altDecode_discard (halt : altitudeFt (a.setWidth 12) = none) : answers s (.altDecode a) .discAlt .empty := by
  simp only [answers, exec, execAltDecode, guarded_ready h, if_neg (Nat.not_lt.mpr ha), halt, State.respond]

theorem altDecode_feet {feet : ℤ} (halt : altitudeFt (a.setWidth 12) = some feet) :
    ∃ v : BitVec 32, v.toInt = feet ∧ answers s (.altDecode a) .ok (.bits 32 v) := by
  have hfeet := altitudeFt_natAbs_lt halt
  refine ⟨BitVec.ofInt 32 feet, BitVec.toInt_ofInt_eq_self (by decide) (by omega) (by omega), ?_⟩
  simp only [answers, exec, execAltDecode, guarded_ready h, if_neg (Nat.not_lt.mpr ha), halt, State.respond]

end AltDecode

theorem map_getLsbD_setWidth (a : BitVec 16) {bits : List Nat} (h : ∀ i ∈ bits, i < 12) :
    bits.map (a.setWidth 12).getLsbD = bits.map a.getLsbD :=
  List.map_congr_left fun i hi => by rw [BitVec.getLsbD_setWidth, decide_eq_true (h i hi), Bool.true_and]

end Sys2Proof.Machine

namespace Sys2Proof.Proofs

open Sys2Proof Sys2Proof.Machine

/-- Settles O45: the bits gathered by their letters are the Gray codes of the coarse and the fine number, and decoding them
gives the numbers. -/
theorem altitudeIsDecoded : Obligations.AltitudeIsDecoded := by
  unfold Obligations.AltitudeIsDecoded
  have hbit4 (a : BitVec 16) : (a.setWidth 12).getLsbD 4 = a.getLsbD 4 := by simp
  refine ⟨fun s a hready => ⟨altDecode_faults hready, fun ha hq => ?_⟩,
    fun s a coarse fine hready ha hq hc hf hcoarse hfine => ?_⟩
  · refine altDecode_feet hready ha ?_
    rw [altitudeFt_of_q ((hbit4 a).trans hq), qAltitude_eq, BitVec.toNat_setWidth, Nat.mod_eq_of_lt (by omega)]
  · have halt := altitudeFt_of_gillham ((hbit4 a).trans hq)
    have hcoarse' := gillhamCoarse_eq (a := a.setWidth 12) hc ((map_getLsbD_setWidth a (by decide)).trans hcoarse)
    have hfine' := gillhamFine_eq (a := a.setWidth 12) hf ((map_getLsbD_setWidth a (by decide)).trans hfine)
    refine ⟨fun hbad => altDecode_discard hready ha (halt.trans (gillham_eq_none (hfine' ▸ hbad))), fun g hg h0 h5 h6 => ?_⟩
    have hsome := halt.trans (gillham_eq_some (by rw [hfine']; omega))
    push_cast at hg
    rw [hcoarse', hfine', gillhamRemap, ← hg] at hsome
    obtain ⟨v, hv, hanswer⟩ := altDecode_feet hready ha hsome
    exact ⟨v, hanswer, hv⟩

end Sys2Proof.Proofs
end

section
/-! PROOFS. The altitudes of the Gillham codes: 47_position_altitude.md R763. A code is the Gray codes of its two numbers,
spread over its bits, so the codes with an altitude are those of a list of 1280, in the order of their altitudes. -/

namespace Sys2Proof.Machine

/-! ## Neighbours in a Gray code (R766) -/

theorem grayEncode_xor (v w : BitVec 16) : grayEncode v ^^^ grayEncode w = grayEncode (v ^^^ w) := by
  refine BitVec.eq_of_getLsbD_eq fun i _ => ?_
  simp only [BitVec.getLsbD_xor, getLsbD_grayEncode]
  rw [Bool.xor_assoc, Bool.xor_left_comm (v.getLsbD (i + 1)), ← Bool.xor_assoc]

/-- Counting on turns a stretch of low bits. -/
theorem exists_xor_succ (n : Nat) : ∃ i, n ^^^ (n + 1) = 2 ^ (i + 1) - 1 := by
  induction n using Nat.strongRecOn with
  | ind n ih =>
    have hhalf : (n ^^^ (n + 1)) / 2 = n / 2 ^^^ (n + 1) / 2 := Nat.xor_div_two
    have hlow : (n ^^^ (n + 1)) % 2 = 1 := by
      rw [Nat.xor_mod_two_eq]
      omega
    rcases Nat.mod_two_eq_zero_or_one n with hn | hn
    · rw [show (n + 1) / 2 = n / 2 by omega, Nat.xor_self] at hhalf
      exact ⟨0, by omega⟩
    · obtain ⟨i, hi⟩ := ih (n / 2) (by omega)
      rw [show (n + 1) / 2 = n / 2 + 1 by omega, hi] at hhalf
      refine ⟨i + 1, ?_⟩
      have hpos := Nat.two_pow_pos (i + 1)
      rw [Nat.pow_succ]
      omega

/-- The Gray codes of neighbours differ in one bit. -/
theorem grayEncode_xor_succ {c n : Nat} (hc : c + 1 < 2 ^ n) (hn : n ≤ 16) :
    ∃ i, i < n ∧ grayEncode (BitVec.ofNat 16 c) ^^^ grayEncode (BitVec.ofNat 16 (c + 1)) = 1#16 <<< i := by
  obtain ⟨i, hi⟩ := exists_xor_succ c
  have hin : i < n := by
    have hlt : c ^^^ (c + 1) < 2 ^ n := Nat.xor_lt_two_pow (by omega) hc
    rw [hi, Nat.pow_succ] at hlt
    by_contra hle
    have hpow : 2 ^ n ≤ 2 ^ i := Nat.pow_le_pow_right (by decide) (Nat.not_lt.mp hle)
    omega
  have hbit (j : Nat) : (BitVec.ofNat 16 c ^^^ BitVec.ofNat 16 (c + 1)).getLsbD j = decide (j ≤ i) := by
    rw [← BitVec.ofNat_xor, hi, BitVec.getLsbD_ofNat, Nat.testBit_two_pow_sub_one, ← Bool.decide_and, decide_eq_decide]
    omega
  refine ⟨i, hin, BitVec.eq_of_getLsbD_eq fun j _ => ?_⟩
  rw [grayEncode_xor, getLsbD_grayEncode, hbit, hbit, ← BitVec.twoPow_eq, BitVec.getLsbD_twoPow, Bool.eq_iff_iff]
  simp only [bne_iff_ne, ne_eq, decide_eq_decide, Bool.and_eq_true, decide_eq_true_eq]
  omega

/-! ## The code of two numbers (R325) -/

theorem gatherBits_lt (a : BitVec 12) (bits : List Nat) : (gatherBits a bits).toNat < 2 ^ bits.length := by
  refine (toNat_lt_two_pow_iff _ _).mpr fun k hk => ?_
  by_cases hk' : k < 16
  · rw [getLsbD_gatherBits a bits hk', List.getD_eq_default _ _ (by simpa using hk)]
  · exact BitVec.getLsbD_of_ge _ _ (Nat.not_lt.mp hk')

/-- The bits of the altitude field from bit 0 up: B4 D4 B2 D2 B1 D1 A4 C4 A2 C2 A1 C1. -/
def spreadList (c f : BitVec 16) : List Bool :=
  [c.getLsbD 6, c.getLsbD 0, c.getLsbD 7, c.getLsbD 1, c.getLsbD 8, c.getLsbD 2, c.getLsbD 3, f.getLsbD 0, c.getLsbD 4,
    f.getLsbD 1, c.getLsbD 5, f.getLsbD 2]

/-- The altitude field whose bits named by `coarseBits` hold `c`, and whose bits named by `fineBits` hold `f`. -/
def spreadBits (c f : BitVec 16) : BitVec 12 := BitVec.ofBoolListLE (spreadList c f)

theorem getLsbD_spreadBits (c f : BitVec 16) (i : Nat) : (spreadBits c f).getLsbD i = (spreadList c f).getD i false :=
  BitVec.getLsbD_ofBoolListLE

theorem map_coarse_spreadBits (c f : BitVec 16) :
    coarseBits.map (spreadBits c f).getLsbD = (List.range 9).map fun k => c.getLsbD (8 - k) := by
  simp only [coarseBits, List.map_cons, List.map_nil, getLsbD_spreadBits]
  rfl

theorem map_fine_spreadBits (c f : BitVec 16) :
    fineBits.map (spreadBits c f).getLsbD = (List.range 3).map fun k => f.getLsbD (2 - k) := by
  simp only [fineBits, List.map_cons, List.map_nil, getLsbD_spreadBits]
  rfl

theorem spreadBits_gatherBits (a : BitVec 12) :
    spreadBits (gatherBits a coarseBits) (gatherBits a fineBits) = a := by
  refine BitVec.eq_of_getLsbD_eq fun i hi => ?_
  rw [getLsbD_spreadBits, spreadList]
  simp (disch := decide) only [getLsbD_gatherBits]
  interval_cases i <;> rfl

theorem spreadBits_xor (c f c' f' : BitVec 16) : spreadBits c f ^^^ spreadBits c' f' = spreadBits (c ^^^ c') (f ^^^ f') := by
  refine BitVec.eq_of_getLsbD_eq fun i hi => ?_
  rw [BitVec.getLsbD_xor]
  simp only [getLsbD_spreadBits, spreadList, BitVec.getLsbD_xor]
  interval_cases i <;> rfl

theorem spreadBits_coarse_bit {i : Nat} (hi : i < 9) : ∃ j, j < 12 ∧ spreadBits (1#16 <<< i) 0#16 = 1#12 <<< j := by
  revert i
  decide

theorem spreadBits_fine_bit {i : Nat} (hi : i < 3) : ∃ j, j < 12 ∧ spreadBits 0#16 (1#16 <<< i) = 1#12 <<< j := by
  revert i
  decide

/-! ## The codes in the order of their altitudes (R762, R763) -/

/-- The fine number of the `k`-th altitude: the valid ones upwards, and downwards where the coarse number is odd. -/
def fineNumber (k : Nat) : Nat := [1, 2, 3, 4, 7, 7, 4, 3, 2, 1].getD (k % 10) 0

/-- The code of the `k`-th altitude, −1200 ft first. -/
def gillhamCode (k : Nat) : BitVec 12 :=
  spreadBits (grayEncode (BitVec.ofNat 16 (k / 5))) (grayEncode (BitVec.ofNat 16 (fineNumber k)))

theorem fineNumber_mod (k : Nat) : fineNumber (k % 10) = fineNumber k := by rw [fineNumber, Nat.mod_mod, fineNumber]

theorem fineNumber_mod_add_one (k : Nat) : fineNumber (k % 10 + 1) = fineNumber (k + 1) := by
  rw [← fineNumber_mod, Nat.mod_add_mod, fineNumber_mod]

theorem fineNumber_valid (k : Nat) :
    fineNumber k < 2 ^ 3 ∧ ¬(fineNumber k = 0 ∨ fineNumber k = 5 ∨ fineNumber k = 6) := by
  have htable : ∀ r < 10, fineNumber r < 2 ^ 3 ∧ ¬(fineNumber r = 0 ∨ fineNumber r = 5 ∨ fineNumber r = 6) := by decide
  rw [← fineNumber_mod]
  exact htable _ (Nat.mod_lt _ (by decide))

theorem gillhamRemap_mod (c f : Nat) : gillhamRemap (c % 2) f = gillhamRemap c f := by
  rw [gillhamRemap, Nat.mod_mod, gillhamRemap]

theorem gillhamRemap_fineNumber (k : Nat) : gillhamRemap (k / 5) (fineNumber k) = (k % 5 : ℕ) + 1 := by
  have htable : ∀ r < 10, gillhamRemap (r / 5) (fineNumber r) = (r % 5 : ℕ) + 1 := by decide
  rw [← fineNumber_mod, ← gillhamRemap_mod, show k / 5 % 2 = k % 10 / 5 by omega, show k % 5 = k % 10 % 5 by omega]
  exact htable _ (Nat.mod_lt _ (by decide))

/-- The order of the fine numbers turns where the coarse number changes. -/
theorem fineNumber_succ_eq {k : Nat} (hlast : k % 5 = 4) : fineNumber (k + 1) = fineNumber k := by
  have htable : ∀ r < 10, r % 5 = 4 → fineNumber (r + 1) = fineNumber r := by decide
  rw [← fineNumber_mod_add_one, ← fineNumber_mod k]
  exact htable _ (Nat.mod_lt _ (by decide)) (by omega)

theorem grayEncode_fineNumber_xor_succ {k : Nat} (hnext : k % 5 ≠ 4) : ∃ i, i < 3 ∧
    grayEncode (BitVec.ofNat 16 (fineNumber k)) ^^^ grayEncode (BitVec.ofNat 16 (fineNumber (k + 1))) = 1#16 <<< i := by
  have htable : ∀ r < 10, r % 5 ≠ 4 → ∃ i < 3,
      grayEncode (BitVec.ofNat 16 (fineNumber r)) ^^^ grayEncode (BitVec.ofNat 16 (fineNumber (r + 1))) = 1#16 <<< i := by
    decide
  rw [← fineNumber_mod_add_one, ← fineNumber_mod k]
  exact htable _ (Nat.mod_lt _ (by decide)) (by omega)

/-- Each pair of a coarse and a valid fine number belongs to an altitude. -/
theorem exists_fineNumber_eq {c f : Nat} (hf : f < 2 ^ 3) (hvalid : ¬(f = 0 ∨ f = 5 ∨ f = 6)) :
    ∃ k, k / 5 = c ∧ fineNumber k = f := by
  have htable : ∀ r < 2, ∀ f < 2 ^ 3, ¬(f = 0 ∨ f = 5 ∨ f = 6) → ∃ i < 5, fineNumber (5 * r + i) = f := by decide
  obtain ⟨i, hi, heq⟩ := htable (c % 2) (Nat.mod_lt _ (by decide)) f hf hvalid
  refine ⟨5 * c + i, by omega, ?_⟩
  rw [← heq, ← fineNumber_mod, show (5 * c + i) % 10 = 5 * (c % 2) + i by omega]

theorem gillhamFine_gillhamCode (k : Nat) : gillhamFine (gillhamCode k) = fineNumber k := by
  obtain ⟨hlt, _⟩ := fineNumber_valid k
  have hfine : (BitVec.ofNat 16 (fineNumber k)).toNat = fineNumber k := by
    rw [BitVec.toNat_ofNat]
    omega
  rw [gillhamCode, gillhamFine_eq (by omega) (map_fine_spreadBits _ _), hfine]

section Code

variable {k : Nat} (hk : k < 1280)
include hk

theorem gillhamCoarse_gillhamCode : gillhamCoarse (gillhamCode k) = k / 5 := by
  have hcoarse : (BitVec.ofNat 16 (k / 5)).toNat = k / 5 := by
    rw [BitVec.toNat_ofNat]
    omega
  rw [gillhamCode, gillhamCoarse_eq (by omega) (map_coarse_spreadBits _ _), hcoarse]

theorem getLsbD_four_gillhamCode : (gillhamCode k).getLsbD 4 = false := by
  have hcoarse : (BitVec.ofNat 16 (k / 5)).toNat < 2 ^ 8 := by
    rw [BitVec.toNat_ofNat]
    omega
  rw [gillhamCode, getLsbD_spreadBits]
  exact (toNat_lt_two_pow_iff _ _).mp (grayEncode_lt hcoarse) 8 le_rfl

theorem altitudeFt_gillhamCode : altitudeFt (gillhamCode k) = some (-1200 + 100 * (k : ℤ)) := by
  obtain ⟨_, hvalid⟩ := fineNumber_valid k
  rw [altitudeFt_of_gillham (getLsbD_four_gillhamCode hk), gillham_eq_some (by rwa [gillhamFine_gillhamCode]),
    gillhamFine_gillhamCode, gillhamCoarse_gillhamCode hk, gillhamRemap_fineNumber]
  congr 1
  omega

end Code

theorem gillhamCode_injOn {j k : Nat} (hj : j < 1280) (hk : k < 1280) (h : gillhamCode j = gillhamCode k) : j = k := by
  have halt := congrArg altitudeFt h
  rw [altitudeFt_gillhamCode hj, altitudeFt_gillhamCode hk, Option.some.injEq] at halt
  omega

section Decoded

variable {a : BitVec 12}

/-- D1 is the Q bit, so a code without it has a coarse number of 8 bits. -/
theorem gillhamCoarse_lt (hq : a.getLsbD 4 = false) : gillhamCoarse a < 2 ^ 8 := by
  have hgather : gatherBits a coarseBits = gatherBits a [2, 0, 10, 8, 6, 5, 3, 1] := by
    rw [gatherBits, coarseBits, List.foldl_cons, hq]
    rfl
  rw [gillhamCoarse_eq_grayCascade, hgather]
  exact grayCascade_lt (gatherBits_lt a _) (by decide)

theorem grayEncode_gillhamCoarse (a : BitVec 12) :
    grayEncode (BitVec.ofNat 16 (gillhamCoarse a)) = gatherBits a coarseBits := by
  rw [gillhamCoarse_eq_grayCascade, BitVec.ofNat_toNat, BitVec.setWidth_eq]
  exact grayEncode_grayCascade (by decide) (gatherBits_lt a _)

theorem grayEncode_gillhamFine (a : BitVec 12) : grayEncode (BitVec.ofNat 16 (gillhamFine a)) = gatherBits a fineBits := by
  rw [gillhamFine_eq_grayCascade, BitVec.ofNat_toNat, BitVec.setWidth_eq]
  exact grayEncode_grayCascade (by decide) (gatherBits_lt a _)

theorem exists_gillhamCode_eq (hq : a.getLsbD 4 = false) (h : (altitudeFt a).isSome) : ∃ k, k < 1280 ∧ gillhamCode k = a := by
  have hvalid : ¬(gillhamFine a = 0 ∨ gillhamFine a = 5 ∨ gillhamFine a = 6) := by
    intro hbad
    rw [altitudeFt_of_gillham hq, gillham_eq_none hbad] at h
    cases h
  have hcoarse := gillhamCoarse_lt hq
  have hfine : gillhamFine a < 2 ^ 3 := grayCascade_lt (gatherBits_lt a _) (by decide)
  obtain ⟨k, hdiv, hk⟩ := exists_fineNumber_eq (c := gillhamCoarse a) hfine hvalid
  exact ⟨k, by omega, by rw [gillhamCode, hdiv, hk, grayEncode_gillhamCoarse, grayEncode_gillhamFine, spreadBits_gatherBits]⟩

end Decoded

/-- From one altitude to the next, one of the two numbers changes, and its Gray code changes in one bit. -/
theorem gillhamCode_xor_succ {k : Nat} (hk : k + 1 < 1280) :
    ∃ i, i < 12 ∧ gillhamCode k ^^^ gillhamCode (k + 1) = 1#12 <<< i := by
  rw [gillhamCode, gillhamCode, spreadBits_xor]
  by_cases hlast : k % 5 = 4
  · obtain ⟨i, hi, hbit⟩ := grayEncode_xor_succ (c := k / 5) (n := 9) (by omega) (by decide)
    rw [fineNumber_succ_eq hlast, BitVec.xor_self, show (k + 1) / 5 = k / 5 + 1 by omega, hbit]
    exact spreadBits_coarse_bit hi
  · obtain ⟨i, hi, hbit⟩ := grayEncode_fineNumber_xor_succ hlast
    rw [hbit, show (k + 1) / 5 = k / 5 by omega, BitVec.xor_self]
    exact spreadBits_fine_bit hi

/-- The fields without the Q bit that have an altitude are the codes of the list. -/
theorem valid_perm_gillhamCodes :
    ((List.range 4096).filter fun n => decide (n / 16 % 2 = 0) && (altitudeFt (BitVec.ofNat 12 n)).isSome).Perm
      ((List.range 1280).map fun k => (gillhamCode k).toNat) := by
  have hcodes : ((List.range 1280).map fun k => (gillhamCode k).toNat).Nodup :=
    List.nodup_range.map_on fun j hj k hk h =>
      gillhamCode_injOn (List.mem_range.mp hj) (List.mem_range.mp hk) (BitVec.eq_of_toNat_eq h)
  refine (List.perm_ext_iff_of_nodup (List.nodup_range.filter _) hcodes).mpr fun n => ?_
  have hq : (BitVec.ofNat 12 n).getLsbD 4 = false ↔ n / 16 % 2 = 0 := by
    rw [BitVec.getLsbD_ofNat, Nat.testBit_eq_decide_div_mod_eq, decide_eq_true (by decide), Bool.true_and,
      decide_eq_false_iff_not, Nat.mod_two_not_eq_one]
  simp only [List.mem_filter, List.mem_range, Bool.and_eq_true, decide_eq_true_eq, List.mem_map, ← hq]
  constructor
  · rintro ⟨hn, hbit, halt⟩
    obtain ⟨k, hk, heq⟩ := exists_gillhamCode_eq hbit halt
    exact ⟨k, hk, by rw [heq, BitVec.toNat_ofNat, Nat.mod_eq_of_lt hn]⟩
  · rintro ⟨k, hk, rfl⟩
    rw [BitVec.ofNat_toNat, BitVec.setWidth_eq, altitudeFt_gillhamCode hk]
    exact ⟨BitVec.isLt _, getLsbD_four_gillhamCode hk, rfl⟩

end Sys2Proof.Machine

namespace Sys2Proof.Proofs

open Sys2Proof Sys2Proof.Machine

/-- Settles O46: the codes with an altitude are those of a list in the order of the altitudes, and neighbours of the list differ
in one bit. -/
theorem gillhamCodesAreAGrayCode : Obligations.GillhamCodesAreAGrayCode := by
  unfold Obligations.GillhamCodesAreAGrayCode
  refine ⟨?_, fun k hk => ⟨gillhamCode k, getLsbD_four_gillhamCode hk, altitudeFt_gillhamCode hk⟩,
    fun a b ft ha hb hft hft' => ?_⟩
  · rw [List.countP_eq_length_filter, valid_perm_gillhamCodes.length_eq, List.length_map, List.length_range]
  · obtain ⟨j, hj, rfl⟩ := exists_gillhamCode_eq ha (Option.isSome_of_mem hft)
    obtain ⟨k, hk, rfl⟩ := exists_gillhamCode_eq hb (Option.isSome_of_mem hft')
    rw [altitudeFt_gillhamCode hj, Option.some.injEq] at hft
    rw [altitudeFt_gillhamCode hk, Option.some.injEq] at hft'
    obtain rfl : k = j + 1 := by omega
    exact gillhamCode_xor_succ hk

end Sys2Proof.Proofs
end

section
/-! PROOFS. The position decoder: 47_position_altitude.md R750 to R753. Rounding is symmetric about 0, so an altitude below 0 is
rounded as the one above it. -/

namespace Sys2Proof.Machine

/-! ## The pattern of the opposite number -/

/-- The pattern with its sign bit turned. -/
def f64Neg (b : F64) : F64 := 0x8000000000000000#64 ^^^ b

theorem f64Neg_f64Neg (b : F64) : f64Neg (f64Neg b) = b := by
  rw [f64Neg, f64Neg, ← BitVec.xor_assoc, BitVec.xor_self, BitVec.zero_xor]

theorem f64Neg_msb (b : F64) : (f64Neg b).msb = !b.msb := by
  rw [f64Neg, BitVec.msb_xor]
  exact Bool.true_xor _

theorem f64Neg_getLsbD_zero (b : F64) : (f64Neg b).getLsbD 0 = b.getLsbD 0 := by
  rw [f64Neg, BitVec.getLsbD_xor]
  exact Bool.false_xor _

/-- Below the sign bit the two patterns are the same. -/
theorem f64Neg_toNat_mod (b : F64) : (f64Neg b).toNat % 2 ^ 63 = b.toNat % 2 ^ 63 := by
  rw [f64Neg, BitVec.toNat_xor, Nat.xor_mod_two_pow]
  exact Nat.zero_xor _

theorem f64Neg_field (b : F64) : (f64Neg b).toNat / 2 ^ 52 % 2 ^ 11 = b.toNat / 2 ^ 52 % 2 ^ 11 := by
  have hlow := f64Neg_toNat_mod b
  omega

theorem f64Neg_mantissa (b : F64) : (f64Neg b).toNat % 2 ^ 52 = b.toNat % 2 ^ 52 := by
  have hlow := f64Neg_toNat_mod b
  omega

theorem f64Finite_f64Neg (b : F64) : f64Finite (f64Neg b) ↔ f64Finite b := by rw [f64Finite, f64Neg_field, f64Finite]

theorem f64Value_f64Neg (b : F64) : f64Value (f64Neg b) = -f64Value b := by
  rw [f64Value, f64Value, f64Neg_field, f64Neg_mantissa, f64Neg_msb, ← neg_mul]
  cases b.msb <;> simp

theorem abs_f64Value_f64Neg_sub (b : F64) (x : ℝ) : |(f64Value (f64Neg b) : ℝ) - -x| = |(f64Value b : ℝ) - x| := by
  rw [f64Value_f64Neg, Rat.cast_neg, ← neg_sub', abs_neg]

/-- Rounding is symmetric about 0. -/
theorem isF64Of_f64Neg {b : F64} {x : ℝ} (h : isF64Of b x) : isF64Of (f64Neg b) (-x) := by
  obtain ⟨hfinite, hnearest⟩ := h
  refine ⟨(f64Finite_f64Neg b).mpr hfinite, fun c hc hne => ?_⟩
  have hother := hnearest (f64Neg c) ((f64Finite_f64Neg c).mpr hc) fun heq => hne (by
    rw [f64Value_f64Neg, ← heq, f64Value_f64Neg, neg_neg])
  rwa [← abs_f64Value_f64Neg_sub b, ← abs_f64Value_f64Neg_sub (f64Neg c), f64Neg_f64Neg, ← f64Neg_getLsbD_zero b] at hother

/-! ## Signed fractions and metres (R752) -/

theorem f64Signed_of_neg {z : ℤ} {d : Nat} (hz : z < 0) (hmsb : (f64Ratio z.natAbs d).msb = false) :
    f64Signed z d = f64Neg (f64Ratio z.natAbs d) := by
  have hsign : 0x8000000000000000#64 = BitVec.twoPow 64 63 := rfl
  rw [f64Signed, if_pos hz, f64Neg, hsign]
  rw [BitVec.msb_eq_getLsbD_last] at hmsb
  refine BitVec.eq_of_getLsbD_eq fun i _ => ?_
  rw [BitVec.getLsbD_or, BitVec.getLsbD_xor, BitVec.getLsbD_twoPow]
  by_cases hi : 63 = i
  · rw [← hi, hmsb]
    rfl
  · simp [hi]

theorem f64Signed_spec {z : ℤ} {d : Nat} (hd : 0 < d) (hmax : (z.natAbs : ℝ) / d < 2 ^ (1024 : ℤ) - 2 ^ (970 : ℤ)) :
    isF64Of (f64Signed z d) ((z : ℝ) / d) ∧ ((f64Signed z d).msb = true ↔ z < 0) := by
  obtain ⟨hmsb, hround⟩ := isF64Of_f64Ratio hd hmax
  rcases lt_or_ge z 0 with hz | hz
  · have hvalue : (z : ℝ) / d = -((z.natAbs : ℝ) / d) := by
      rw [Nat.cast_natAbs, abs_of_neg hz, Int.cast_neg, neg_div, neg_neg]
    rw [f64Signed_of_neg hz hmsb, f64Neg_msb, hmsb, hvalue]
    exact ⟨isF64Of_f64Neg hround, by simp [hz]⟩
  · have hvalue : (z : ℝ) / d = (z.natAbs : ℝ) / d := by rw [Nat.cast_natAbs, abs_of_nonneg hz]
    rw [f64Signed, if_neg (Int.not_lt.mpr hz), hmsb, hvalue]
    exact ⟨hround, by simpa using hz⟩

theorem f64Metres_spec {feet : ℤ} (h : feet.natAbs < 2 ^ 26) :
    isF64Of (f64Metres feet) ((feet : ℝ) * 0.3048) ∧ ((f64Metres feet).msb = true ↔ feet < 0) := by
  have hvalue : (feet : ℝ) * 0.3048 = ((feet * Config.footNum : ℤ) : ℝ) / Config.footDen := by
    push_cast [Config.footNum, Config.footDen]
    ring
  have hsign : feet < 0 ↔ feet * Config.footNum < 0 := by
    rw [Config.footNum]
    omega
  rw [hvalue, hsign]
  refine f64Signed_spec (by decide) (lt_overflow_bound ?_)
  have hbound : (feet * Config.footNum).natAbs < 2 ^ 53 * Config.footDen := by
    rw [Config.footNum, Config.footDen]
    omega
  rw [div_lt_iff₀ (by norm_num [Config.footDen]), zpow_ofNat]
  exact_mod_cast hbound

/-! ## The position decoder, from the fields of ME (R750, R751, R753) -/

section Position

variable {f : Frame} (h : f.bytes.length = 14)
include h

theorem extractLsb'_me_eq_ofNat {lo w hi : Nat} (hw : hi - lo + 1 = w) :
    f.me.extractLsb' lo w = BitVec.ofNat w (meField f hi lo) := by
  rw [← extractLsb'_me_toNat h hw, BitVec.ofNat_toNat, BitVec.setWidth_eq]

theorem decodeFrame_of_position (o : Config.Options) (hlow : 9 ≤ meField f 55 51) (hhigh : meField f 55 51 ≤ 22)
    (hne : meField f 55 51 ≠ 19) : decodeFrame o f = decodePosition f f.me := by
  simp only [decodeFrame, meTc_toNat h]
  rw [if_neg (by omega), if_neg hne, if_pos ⟨hlow, hhigh⟩]

theorem decodePosition_no_altitude (halt : altitudeFt (BitVec.ofNat 12 (meField f 47 36)) = none) :
    decodePosition f f.me = .discard .discAlt := by
  rw [decodePosition, extractLsb'_me_eq_ofNat h (hi := 47) rfl, halt]

theorem decodePosition_message {feet : ℤ} (halt : altitudeFt (BitVec.ofNat 12 (meField f 47 36)) = some feet) :
    decodePosition f f.me = .message (.position
      { ts := f.ts, icao := f.icao, altitudeM := f64Metres feet
        parity := if meField f 34 34 = 1 then .odd else .even
        x := BitVec.ofNat 17 (meField f 16 0), y := BitVec.ofNat 17 (meField f 33 17) }) := by
  rw [decodePosition, extractLsb'_me_eq_ofNat h (hi := 47) rfl, halt, extractLsb'_me_eq_ofNat h (hi := 16) rfl,
    extractLsb'_me_eq_ofNat h (hi := 33) rfl, getLsbD_me h]
  simp only [decide_eq_true_eq]

end Position

end Sys2Proof.Machine

namespace Sys2Proof.Proofs

open Sys2Proof Sys2Proof.Machine

/-- Settles O41: the altitude field decides between a discard and a message, and the metres are a correctly rounded signed
fraction. -/
theorem positionIsDecoded : Obligations.PositionIsDecoded := by
  unfold Obligations.PositionIsDecoded
  intro s f hready hframe hlength hlow hhigh hne
  have hpath := decodeFrame_of_position hlength s.cfg hlow hhigh hne
  refine ⟨fun halt => msgDecode_discard hready hframe (hpath.trans (decodePosition_no_altitude hlength halt)),
    fun feet halt => ?_⟩
  obtain ⟨hmetres, hsign⟩ := f64Metres_spec (altitudeFt_natAbs_lt halt)
  exact ⟨_, hmetres, hsign, msgDecode_message hready hframe (hpath.trans (decodePosition_message hlength halt))⟩

end Sys2Proof.Proofs
end

section
/-! PROOFS. Faults and the host: 60_exceptions.md R905 to R913, R940 and R943, 70_reset_and_hazards.md R952. A fault ends a
command on the state of before it; what a command can fault with is found end by end, as what it writes is. -/

namespace Sys2Proof.Machine

/-! ## A command that faults (R905) -/

theorem exec_fault {i : Instr} {s t : State} {c : Cause} {info : BitVec 64} (h : exec i s = .next t)
    (hresp : t.resp = some (.fault c info)) : t = s.raiseFault c info := by
  by_cases hstatus : i = .blkStatus
  · subst hstatus
    obtain ⟨-, rfl⟩ := unguarded_cases (exec_blkStatus s ▸ h)
    cases hresp
  by_cases hreset : i = .blkReset
  · subst hreset
    obtain ⟨-, rfl⟩ := unguarded_cases (exec_blkReset s ▸ h)
    cases hresp
  obtain ⟨u, hu, hend⟩ := exec_ends hstatus hreset s
  obtain ⟨-, -, rfl⟩ | ⟨-, rfl⟩ := guarded_cases (hu ▸ h)
  · cases hresp
  · cases hend with
    | answer o v _ => cases hresp
    | fault c' info' =>
      cases hresp
      rfl
    | hold _ _ => cases hresp

/-! ## What the runs of a command can fault with (R906) -/

/-- Every fault that a run raises is one of `C`. -/
def Run.FaultsIn {α : Type} (C : Cause → BitVec 64 → Prop) (r : Run α) : Prop := ∀ c info, r = .fault c info → C c info

namespace Run.FaultsIn

variable {α : Type} {C D : Cause → BitVec 64 → Prop}

theorem done (a : α) : (Run.done a).FaultsIn C := nofun

theorem wait : (Run.wait : Run α).FaultsIn C := nofun

theorem fault {c : Cause} {info : BitVec 64} (h : C c info) : (Run.fault c info : Run α).FaultsIn C := by
  intro c' info' heq
  cases heq
  exact h

theorem ite {p : Prop} [Decidable p] {r q : Run α} (hr : p → r.FaultsIn C) (hq : ¬p → q.FaultsIn C) :
    (if p then r else q).FaultsIn C := by
  split
  · next hp => exact hr hp
  · next hp => exact hq hp

theorem mono {r : Run α} (h : r.FaultsIn C) (hCD : ∀ c info, C c info → D c info) : r.FaultsIn D :=
  fun c info heq => hCD c info (h c info heq)

end Run.FaultsIn

/-- The causes of a read of one power sample (R502, R557). -/
def readCause (c : Cause) (_ : BitVec 64) : Prop := c = .sampleRange ∨ c = .winPastEnd

/-- The causes of the demodulator (R502, R613): its window is full, so it reads no sample past the end. -/
def demCause (c : Cause) (_ : BitVec 64) : Prop := c = .sampleRange ∨ c = .tsOverflow

theorem needRun_faultsIn (s : State) (k : Nat) : (s.needRun k).FaultsIn readCause := by
  unfold State.needRun
  cases need s.src s.eos k with
  | wait => exact .wait
  | absent => exact .fault (.inr rfl)
  | bad n u => exact .fault (.inl rfl)
  | value v => exact .done v

/-- Samples that have been delivered can only be bad (R502). -/
theorem needAll_faultsIn {src : List Byte} {ks : List Nat} (h : ∀ k ∈ ks, k < powerCount src) (eos : Bool) :
    (needAll src eos ks).FaultsIn fun c _ => c = .sampleRange := by
  induction ks with
  | nil => exact .done ()
  | cons k ks ih =>
    obtain ⟨hk, hks⟩ := List.forall_mem_cons.mp h
    rw [needAll, need, if_neg (Nat.not_le.mpr hk)]
    cases badSample src k with
    | some n => exact .fault rfl
    | none => exact ih hks

/-- What an advance can fault with: its read, or that no left edge follows the last one (R553, R101; log 14). -/
def advanceCause (src : List Byte) (c : Cause) (info : BitVec 64) : Prop :=
  readCause c info ∨ (c = .tsOverflow ∧ info = BitVec.allOnes 64 ∧ 2 ^ 64 ≤ powerCount src)

theorem advanceRun_faultsIn (s : State) : (advanceRun s).FaultsIn (advanceCause s.src) := by
  have hread := needRun_faultsIn s s.wpos.toNat
  cases hv : s.needRun s.wpos.toNat with
  | done v =>
    rw [advanceRun_of_value hv]
    refine .ite (fun hlast => .fault (.inr ⟨rfl, BitVec.eq_of_toNat_eq ?_, ?_⟩)) fun _ => .done _
    · have := s.wpos.isLt
      rw [BitVec.toNat_allOnes]
      omega
    · have := (needRun_done hv).1
      omega
  | fault c info =>
    rw [advanceRun_of_fault hv]
    exact .fault (.inl (hread c info hv))
  | wait =>
    rw [advanceRun_of_wait hv]
    exact .wait

theorem advanceByRun_faultsIn (n : Nat) (s : State) : (advanceByRun n s).FaultsIn (advanceCause s.src) := by
  induction n generalizing s with
  | zero => exact .done s
  | succ n ih =>
    have hfirst := advanceRun_faultsIn s
    rw [advanceByRun]
    cases ht : advanceRun s with
    | done t =>
      have hsrc : t.src = s.src := by rw [(advanceRun_done ht).1, take_src]
      exact hsrc ▸ ih t
    | fault c info => exact .fault (hfirst c info ht)
    | wait => exact .wait

theorem respondEmpty_faultsIn {C : Cause → BitVec 64 → Prop} {r : Run State} (h : r.FaultsIn C) : r.respondEmpty.FaultsIn C := by
  cases r with
  | done t => exact .done _
  | fault c info => exact .fault (h c info rfl)
  | wait => exact .wait

/-! ### The demodulator -/

theorem lt_of_mem_slicerPoints {p a b k : Nat} (hb : a + b ≤ 224)
    (h : k ∈ (List.range b).map fun i => slicerPoint p (a + i)) : k < p + 1200 := by
  obtain ⟨i, hi, rfl⟩ := List.mem_map.mp h
  have := List.mem_range.mp hi
  unfold slicerPoint
  omega

/-- With a full window every sample that the left edge needs has been delivered (R555, R610). -/
theorem examineRun_faultsIn {s : State} (hfull : s.wpos.toNat + 1200 ≤ powerCount s.src) :
    s.examineRun.FaultsIn fun c _ => c = .sampleRange := by
  have hpre := needAll_faultsIn (src := s.src) (ks := preambleReads s.cfg.skipPrev s.wpos.toNat s.dprev)
    (fun k hk => by
      have := le_of_mem_preambleOrder (preambleReads_eq_preambleOrder s ▸ hk)
      omega) s.eos
  have hfirst := needAll_faultsIn (src := s.src) (ks := byteReads s.wpos.toNat 0)
    (fun k hk => (lt_of_mem_slicerPoints (by decide) (byte0Reads_eq _ ▸ hk)).trans_le hfull) s.eos
  have hlater := needAll_faultsIn (src := s.src) (ks := (List.range 13).flatMap fun m => byteReads s.wpos.toNat (m + 1))
    (fun k hk => (lt_of_mem_slicerPoints (by decide) (laterByteReads_eq _ ▸ hk)).trans_le hfull) s.eos
  unfold State.examineRun examine
  split
  · next hfault => exact .fault (hpre _ _ hfault)
  · exact .wait
  · refine .ite (fun _ => ?_) fun _ => .done _
    split
    · next hfault => exact .fault (hfirst _ _ hfault)
    · exact .wait
    · refine .ite (fun _ => ?_) fun _ => .done _
      split
      · next hfault => exact .fault (hlater _ _ hfault)
      · exact .wait
      · exact .ite (fun _ => .done _) fun _ => .done _

theorem scanRun_faultsIn {n : Nat} {s : State} (hn : fullPositions s.src s.wpos.toNat = n) :
    s.scanRun.FaultsIn demCause := by
  induction n generalizing s with
  | zero =>
    rw [State.scanRun, hn, scan]
    exact .ite (fun _ => .done _) fun _ => .wait
  | succ n ih =>
    have hfull : s.wpos.toNat + 1200 ≤ powerCount s.src := by
      refine Nat.not_lt.mp fun hlt => ?_
      rw [(fullPositions_eq_zero_iff ..).mpr hlt] at hn
      cases hn
    cases he : s.examineRun with
    | done e =>
      cases e with
      | found bytes t =>
        rw [scanRun_of_found hfull he]
        exact .ite (fun _ => .fault (.inr rfl)) fun _ => .done _
      | rejected cur t =>
        rw [scanRun_of_rejected hfull he]
        refine .ite (fun _ => .fault (.inr rfl)) fun hlast => ih ?_
        rw [passed_wpos_toNat s cur t (Nat.not_le.mp hlast)]
        exact fullPositions_succ hn
    | fault c info =>
      rw [scanRun_of_fault hfull he]
      exact .fault (.inl (examineRun_faultsIn hfull c info he))
    | wait =>
      obtain ⟨m, -, hrun⟩ := scanRun_of_full hfull
      unfold State.examineRun at he
      rw [hrun, scan, he]
      exact .wait

theorem demRun_faultsIn (s : State) : (demRun s).FaultsIn demCause := by
  cases hstate : s.dstate with
  | done =>
    rw [demRun_of_done hstate]
    exact .done _
  | scanning =>
    have hscan := scanRun_faultsIn (s := s) rfl
    cases hrun : s.scanRun with
    | fault c info =>
      rw [demRun_of_scanRun_fault hstate hrun]
      exact .fault (hscan c info hrun)
    | wait =>
      rw [demRun_of_scanRun_wait hstate hrun]
      exact .wait
    | done e =>
      cases e with
      | frame p bytes taken =>
        rw [demRun_of_scanRun_frame hstate hrun]
        exact .done _
      | ended p prev taken =>
        rw [demRun_of_scanRun_ended hstate hrun]
        exact .done _

/-- The timestamp of a frame that the demodulator returns is below 2^63 (R613). -/
theorem demRun_frame_ts {s t : State} {f : Frame} (h : demRun s = .done (t, some f)) : f.ts.toNat < 2 ^ 63 := by
  cases hstate : s.dstate with
  | done => cases (demRun_of_done hstate).symm.trans h
  | scanning =>
    obtain ⟨p, bytes, taken, hrun, rfl⟩ := demRun_eq_frame hstate h
    have hscan := scan_scanEnd s.src s.eos s.cfg.skipPrev rfl s.wpos.isLt s.dprev s.taken
    unfold State.scanRun at hrun
    cases (hrun ▸ hscan).of_done with
    | frame taken hpq hfull hts hframe => exact hframe.ts_small

/-- The message of a found frame passes the checks of the tracker (R703, R857, R890). -/
theorem checkMsg_of_demRun {s t : State} {f : Frame} (h : demRun s = .done (t, some f)) {o : Config.Options} {m : Message}
    (hm : decodeFrame o f = .message m) : checkMsg m.toOperand = .done m :=
  Proofs.decodedMessagesPassTheChecks o f m (demRun_frame_ts h) hm

theorem demRespond_faultsIn (s : State) : (demRespond (demRun s)).FaultsIn demCause := by
  have hdem := demRun_faultsIn s
  cases hrun : demRun s with
  | done a =>
    obtain ⟨o, v, ha⟩ := demRespond_done a
    exact ha ▸ .done _
  | fault c info => exact .fault (hdem c info hrun)
  | wait => exact .wait

theorem pipeRun_faultsIn (s : State) : (pipeRun (demRun s)).FaultsIn demCause := by
  have hdem := demRun_faultsIn s
  cases hrun : demRun s with
  | done a =>
    obtain ⟨t, _ | f⟩ := a
    · exact .done _
    · rw [pipeRun]
      split
      · exact .done _
      · next m hm =>
        rw [checkMsg_of_demRun hrun hm]
        exact .done _
  | fault c info => exact .fault (hdem c info hrun)
  | wait => exact .wait

/-! ### The checks of a message operand -/

/-- The causes of R857 and R304. -/
def checkCause (c : Cause) (_ : BitVec 64) : Prop := c = .badOperand ∨ c = .tsNegative ∨ c = .badField

theorem checkMsg_faultsIn (msg : MsgOperand) : (checkMsg msg).FaultsIn checkCause := by
  have hfield (n : BitVec 64) : (Run.fault .badField n : Run Message).FaultsIn checkCause := .fault (.inr (.inr rfl))
  have hts (ts : Ts) : (Run.fault .tsNegative ts : Run Message).FaultsIn checkCause := .fault (.inr (.inl rfl))
  cases msg with
  | badTag tag => exact .fault (.inl rfl)
  | ident ts icao category callSign =>
    exact .ite (fun _ => hts _) fun _ => .ite (fun _ => hfield _) fun _ => .ite (fun _ => .done _) fun _ => hfield _
  | position ts icao altitudeM parity x y =>
    exact .ite (fun _ => hts _) fun _ => .ite (fun _ => hfield _) fun _ => .ite (fun _ => hfield _) fun _ => .done _
  | velocity ts icao speedMps trackRad =>
    exact .ite (fun _ => hts _) fun _ => .ite (fun _ => hfield _) fun _ => .ite (fun _ => hfield _) fun _ => .done _

/-! ## What a command can fault with (R906) -/

/-- The fault is in the row of the command, or it is that of a host advance from the last left edge (log 14). -/
def listed (s : State) (i : Instr) (c : Cause) (info : BitVec 64) : Prop :=
  raises c i = true ∨
    (c = .tsOverflow ∧ info = BitVec.allOnes 64 ∧ 2 ^ 64 ≤ powerCount s.src ∧ (i = .winAdvance ∨ ∃ n, i = .winAdvanceby n))

/-- A normal response. -/
def answered (t : State) : Prop := ∃ o v, t.resp = some (.normal o v)

theorem respondEmpty_answered (r : Run State) : r.respondEmpty.Ends True answered := by
  cases r with
  | done t => exact .done ⟨_, _, rfl⟩
  | fault c info => exact .fault c info
  | wait => exact .wait trivial

theorem demRespond_answered (r : Run (State × Option Frame)) : (demRespond r).Ends True answered := by
  cases r with
  | done a =>
    obtain ⟨o, v, ha⟩ := demRespond_done a
    exact ha ▸ .done ⟨o, v, rfl⟩
  | fault c info => exact .fault c info
  | wait => exact .wait trivial

theorem pipeRun_answered (r : Run (State × Option Frame)) : (pipeRun r).Ends True answered := by
  cases r with
  | done a =>
    obtain ⟨t, _ | f⟩ := a
    · exact .done ⟨_, _, rfl⟩
    · rw [pipeRun]
      split
      · exact .done ⟨_, _, rfl⟩
      · split
        · exact .fault _ _
        · exact .wait trivial
        · exact .done ⟨_, _, rfl⟩
  | fault c info => exact .fault c info
  | wait => exact .wait trivial

/-- If `t` answers with a fault, it is a listed one. -/
def ListedFault (s : State) (i : Instr) (t : State) : Prop := ∀ c info, t.resp = some (.fault c info) → listed s i c info

namespace ListedFault

variable {s t u : State} {i : Instr}

theorem respond (t : State) (o : RespOutcome) (v : Value) : ListedFault s i (t.respond o v) := nofun

theorem fault {c : Cause} {info : BitVec 64} (h : listed s i c info) : ListedFault s i (t.raiseFault c info) := by
  intro c' info' hresp
  cases hresp
  exact h

theorem raise {c : Cause} {info : BitVec 64} (h : raises c i = true) : ListedFault s i (t.raiseFault c info) := fault (.inl h)

theorem ite {p : Prop} [Decidable p] (ht : ListedFault s i t) (hu : ListedFault s i u) :
    ListedFault s i (if p then t else u) := by
  split
  · exact ht
  · exact hu

theorem withFrame {value : Frame → Value} (h : raises .noFrame i = true) : ListedFault s i (s.withFrame value) := by
  unfold State.withFrame
  split
  · exact raise h
  · exact respond _ _ _

/-- The result of a run answers normally, and its faults are listed. -/
theorem settle {r : Run State} (hdone : r.Ends True answered) (hfault : r.FaultsIn (listed s i)) :
    ListedFault s i (s.settle i r) := by
  cases hdone with
  | done h =>
    obtain ⟨o, v, hresp⟩ := h
    intro c info hc
    cases hresp.symm.trans hc
  | fault c info => exact fault (hfault c info rfl)
  | wait _ => exact nofun

theorem of_guarded (h : guarded s t = .next u) (ht : ListedFault s i t) : ListedFault s i u := by
  obtain ⟨-, -, rfl⟩ | ⟨-, rfl⟩ := guarded_cases h
  · exact nofun
  · exact ht

end ListedFault

/-! ### The commands whose faults take a case split -/

section Commands

variable {s t : State}

theorem execWinGet_listed {i : BitVec 16} (h : execWinGet i s = .next t) : ListedFault s (.winGet i) t := by
  refine .of_guarded h (.ite (.raise rfl) (.settle ?_ ?_))
  · unfold winGetRun
    split
    · exact .done ⟨_, _, rfl⟩
    · exact .fault _ _
    · exact .wait trivial
  · have hread := needRun_faultsIn s (s.wpos.toNat + i.toNat)
    unfold winGetRun
    split
    · exact .done _
    · next hfault =>
      obtain rfl | rfl := hread _ _ hfault
      · exact .fault (.inl rfl)
      · exact .fault (.inl rfl)
    · exact .wait

theorem execWinIsfull_listed (h : execWinIsfull s = .next t) : ListedFault s .winIsfull t := by
  have hfull : ∀ c info, isFullRun s ≠ .fault c info := by
    intro c info
    unfold isFullRun
    split_ifs <;> exact nofun
  refine .of_guarded h (.settle ?_ ?_)
  · split
    · exact .done ⟨_, _, rfl⟩
    · exact .fault _ _
    · exact .wait trivial
  · split
    · exact .done _
    · next hfault => exact absurd hfault (hfull _ _)
    · exact .wait

theorem execTrkUpdate_listed {msg : MsgOperand} (h : execTrkUpdate msg s = .next t) : ListedFault s (.trkUpdate msg) t := by
  have hcheck := checkMsg_faultsIn msg
  refine .of_guarded h (.settle ?_ ?_)
  · split
    · exact .done ⟨_, _, rfl⟩
    · exact .fault _ _
    · exact .wait trivial
  · split
    · exact .done _
    · next hfault =>
      obtain rfl | rfl | rfl := hcheck _ _ hfault
      · exact .fault (.inl rfl)
      · exact .fault (.inl rfl)
      · exact .fault (.inl rfl)
    · exact .wait

theorem execPePower_listed {s0 s1 s2 s3 s4 s5 s6 s7 : BitVec 16} (h : execPePower s0 s1 s2 s3 s4 s5 s6 s7 s = .next t) :
    ListedFault s (.pePower s0 s1 s2 s3 s4 s5 s6 s7) t := by
  refine .of_guarded h ?_
  split
  · exact .raise rfl
  · exact .respond _ _ _

theorem execMsgDecode_listed (h : execMsgDecode s = .next t) : ListedFault s .msgDecode t := by
  refine .of_guarded h ?_
  split
  · exact .raise rfl
  · split
    · exact .respond _ _ _
    · exact .respond _ _ _

theorem execAltDecode_listed {alt12 : BitVec 16} (h : execAltDecode alt12 s = .next t) : ListedFault s (.altDecode alt12) t := by
  refine .of_guarded h (.ite (.raise rfl) ?_)
  split
  · exact .respond _ _ _
  · exact .respond _ _ _

theorem execBlkConfig_listed {n : BitVec 8} (h : execBlkConfig n s = .next t) : ListedFault s (.blkConfig n) t := by
  refine .of_guarded h ?_
  split
  · exact .raise rfl
  · exact .respond _ _ _

end Commands

theorem listed_of_demCause {s : State} {i : Instr} (hbad : raises .sampleRange i = true) (hts : raises .tsOverflow i = true)
    {c : Cause} {info : BitVec 64} (h : demCause c info) : listed s i c info := by
  obtain rfl | rfl := h
  · exact .inl hbad
  · exact .inl hts

theorem listed_of_advanceCause {s : State} {i : Instr} (hbad : raises .sampleRange i = true) (hend : raises .winPastEnd i = true)
    (hi : i = .winAdvance ∨ ∃ n, i = .winAdvanceby n) {c : Cause} {info : BitVec 64} (h : advanceCause s.src c info) :
    listed s i c info := by
  obtain (rfl | rfl) | ⟨rfl, hinfo, hcount⟩ := h
  · exact .inl hbad
  · exact .inl hend
  · exact .inr ⟨rfl, hinfo, hcount, hi⟩

/-- Every command raises only the causes of its rows in R906's table, but for a host advance (log 14). -/
theorem exec_listedFault {i : Instr} {s t : State} (h : exec i s = .next t) : ListedFault s i t := by
  cases i with
  | bfExtract value start size => exact .of_guarded h (.ite (.raise rfl) (.ite (.raise rfl) (.respond _ _ _)))
  | bfTestbit value index => exact .of_guarded h (.ite (.raise rfl) (.respond _ _ _))
  | bsRange seq lo hi => exact .of_guarded h (.ite (.raise rfl) (.ite (.raise rfl) (.respond _ _ _)))
  | crcCompute seq => exact .of_guarded h (.respond _ _ _)
  | crcCheck seq => exact .of_guarded h (.respond _ _ _)
  | crcTable index => exact .of_guarded h (.respond _ _ _)
  | scCondition lo hi => exact .of_guarded h (.ite (.raise rfl) (.respond _ _ _))
  | pePower s0 s1 s2 s3 s4 s5 s6 s7 => exact execPePower_listed h
  | winGet idx => exact execWinGet_listed h
  | winAdvance =>
    exact .of_guarded h (.settle (respondEmpty_answered _) (respondEmpty_faultsIn ((advanceRun_faultsIn s).mono
      fun _ _ => listed_of_advanceCause rfl rfl (.inl rfl))))
  | winAdvanceby n =>
    exact .of_guarded h (.settle (respondEmpty_answered _) (respondEmpty_faultsIn ((advanceByRun_faultsIn _ s).mono
      fun _ _ => listed_of_advanceCause rfl rfl (.inr ⟨n, rfl⟩))))
  | winIsfull => exact execWinIsfull_listed h
  | winPosition => exact .of_guarded h (.respond _ _ _)
  | demSize byte0 => exact .of_guarded h (.respond _ _ _)
  | demNext =>
    exact .of_guarded h (.settle (demRespond_answered _) ((demRespond_faultsIn s).mono fun _ _ => listed_of_demCause rfl rfl))
  | frmInject ts frame =>
    exact .of_guarded h (.ite (.raise rfl) (.ite (.respond _ _ _) (.ite (.respond _ _ _) (.respond _ _ _))))
  | frmTs => exact .of_guarded h (.withFrame rfl)
  | frmDf => exact .of_guarded h (.withFrame rfl)
  | frmCa => exact .of_guarded h (.withFrame rfl)
  | frmIcao => exact .of_guarded h (.withFrame rfl)
  | frmMe => exact .of_guarded h (.withFrame rfl)
  | frmTc => exact .of_guarded h (.withFrame rfl)
  | frmBytes => exact .of_guarded h (.withFrame rfl)
  | msgDecode => exact execMsgDecode_listed h
  | altDecode alt12 => exact execAltDecode_listed h
  | grayDecode v n => exact .of_guarded h (.ite (.raise rfl) (.ite (.raise rfl) (.respond _ _ _)))
  | csChar code => exact .of_guarded h (.ite (.raise rfl) (.respond _ _ _))
  | cprMerge x0 y0 x1 y1 recent => exact .of_guarded h (.respond _ _ _)
  | trkUpdate msg => exact execTrkUpdate_listed h
  | trkPurge now => exact .of_guarded h (.ite (.raise rfl) (.respond _ _ _))
  | trkRead icao => exact .of_guarded h (.respond _ _ _)
  | trkLast => exact .of_guarded h (.respond _ _ _)
  | evPop => exact .of_guarded h (.respond _ _ _)
  | pipeStep =>
    exact .of_guarded h (.settle (pipeRun_answered _) ((pipeRun_faultsIn s).mono fun _ _ => listed_of_demCause rfl rfl))
  | blkReset =>
    obtain ⟨-, rfl⟩ := unguarded_cases h
    exact .respond _ _ _
  | blkStatus =>
    obtain ⟨-, rfl⟩ := unguarded_cases h
    exact .respond _ _ _
  | blkConfig n => exact execBlkConfig_listed h

/-! ## The step, action by action (R940, R943) -/

section Host

variable {s : State} {act : HostAct} {rest : List HostAct}

theorem fetch_idle (hc : s.cause.toNat < 16) (hpending : s.pending = none) (hinbox : s.inbox = act :: rest) :
    fetch s = fetchIdle { s with inbox := rest } act := by
  simp [fetch, State.causeReserved, Nat.not_le.mpr hc, fetchNext, hinbox, hpending]

theorem fetch_waiting (hc : s.cause.toNat < 16) {i : Instr} (hpending : s.pending = some i) (hinbox : s.inbox = act :: rest) :
    fetch s = fetchWaiting { s with inbox := rest } i act := by
  simp [fetch, State.causeReserved, Nat.not_le.mpr hc, fetchNext, hinbox, hpending]

theorem step_of_no_action (hc : s.cause.toNat < 16) (hinbox : s.inbox = []) : step s = .next s := by
  simp [step, fetch, State.causeReserved, Nat.not_le.mpr hc, fetchNext, hinbox]

end Host

/-! ## A faulted block (R907, R909) -/

theorem exec_faulted {i : Instr} {s : State} (hf : s.faulted = true) (hc : s.cause.toNat < 16) (hstatus : i ≠ .blkStatus)
    (hreset : i ≠ .blkReset) : exec i s = .next s.respondRefused := by
  obtain ⟨t, ht, -⟩ := exec_ends hstatus hreset s
  rw [ht, guarded_faulted hf hc]

/-- `t` has the fault and the pipeline of `s`; no command waits in it, and its host issues nothing that the
host of `s` does not. -/
structure FaultKept (s t : State) : Prop where
  faulted : t.faulted = s.faulted
  cause : t.cause = s.cause
  faultInfo : t.faultInfo = s.faultInfo
  wpos : t.wpos = s.wpos
  dprev : t.dprev = s.dprev
  dstate : t.dstate = s.dstate
  frame : t.frame = s.frame
  table : t.table = s.table
  lastNs : t.lastNs = s.lastNs
  ev : t.ev = s.ev
  taken : t.taken = s.taken
  cfg : t.cfg = s.cfg
  pending : t.pending = none
  inbox : t.inbox ⊆ s.inbox

namespace FaultKept

variable {s t u : State}

theorem refl (hp : s.pending = none) : FaultKept s s where
  faulted := rfl
  cause := rfl
  faultInfo := rfl
  wpos := rfl
  dprev := rfl
  dstate := rfl
  frame := rfl
  table := rfl
  lastNs := rfl
  ev := rfl
  taken := rfl
  cfg := rfl
  pending := hp
  inbox := List.Subset.refl _

theorem trans (hst : FaultKept s t) (htu : FaultKept t u) : FaultKept s u where
  faulted := htu.faulted.trans hst.faulted
  cause := htu.cause.trans hst.cause
  faultInfo := htu.faultInfo.trans hst.faultInfo
  wpos := htu.wpos.trans hst.wpos
  dprev := htu.dprev.trans hst.dprev
  dstate := htu.dstate.trans hst.dstate
  frame := htu.frame.trans hst.frame
  table := htu.table.trans hst.table
  lastNs := htu.lastNs.trans hst.lastNs
  ev := htu.ev.trans hst.ev
  taken := htu.taken.trans hst.taken
  cfg := htu.cfg.trans hst.cfg
  pending := htu.pending
  inbox := List.Subset.trans htu.inbox hst.inbox

theorem respond (h : FaultKept s t) (o : RespOutcome) (v : Value) : FaultKept s (t.respond o v) := { h with }

theorem respondRefused (h : FaultKept s t) : FaultKept s t.respondRefused := { h with }

theorem signalEos (h : FaultKept s t) : FaultKept s t.signalEos := { h with }

theorem deliver (h : FaultKept s t) (bs : List Byte) : FaultKept s (t.deliver bs) := by
  rw [deliver_eq]
  exact { h with }

end FaultKept

/-- A faulted block runs `BLK.STATUS` and, but for `BLK.RESET`, refuses the rest (R907). -/
theorem exec_faultKept {i : Instr} {s t : State} (hf : s.faulted = true) (hc : s.cause.toNat < 16) (hp : s.pending = none)
    (hreset : i ≠ .blkReset) (h : exec i s = .next t) : FaultKept s t := by
  by_cases hstatus : i = .blkStatus
  · subst hstatus
    obtain ⟨-, rfl⟩ := unguarded_cases (exec_blkStatus s ▸ h)
    exact (FaultKept.refl hp).respond _ _
  · cases (exec_faulted hf hc hstatus hreset).symm.trans h
    exact (FaultKept.refl hp).respondRefused

/-- One action of the host on a faulted block; bytes and end-of-stream change the stream alone (log 18). -/
theorem step_faultKept {s t : State} (hf : s.faulted = true) (hc : s.cause.toNat < 16) (hp : s.pending = none)
    (hreset : ∀ command, HostAct.issue command ∈ s.inbox → decode command ≠ .ok .blkReset) (h : step s = .next t) :
    FaultKept s t := by
  cases hinbox : s.inbox with
  | nil =>
    cases (step_of_no_action hc hinbox).symm.trans h
    exact .refl hp
  | cons act rest =>
    have htaken : FaultKept s { s with inbox := rest } :=
      { FaultKept.refl hp with inbox := hinbox ▸ List.subset_cons_self act rest }
    rw [step, fetch_idle hc hp hinbox] at h
    cases act with
    | issue command =>
      have hcommand := hreset command (hinbox ▸ List.mem_cons_self)
      rw [fetchIdle, fetchCommand] at h
      cases hdecode : decode command with
      | ok i =>
        rw [hdecode] at h hcommand
        exact htaken.trans (exec_faultKept (s := { s with inbox := rest }) hf hc hp (fun hi => hcommand (hi ▸ rfl)) h)
      | error e =>
        rw [hdecode] at h
        cases e with
        | illegalOpcode op =>
          cases h
          rw [State.illegalCommand, if_pos (show ({ s with inbox := rest } : State).faulted = true from hf)]
          exact htaken.respondRefused
        | truncated op => cases h
        | empty => cases h
    | deliver bs =>
      cases h
      exact htaken.deliver bs
    | eos =>
      cases h
      exact htaken.signalEos
    | ioError =>
      cases h
      exact htaken

/-- A run of `k + 1` steps begins with a step that leads to a state. -/
theorem core_run_succ {M : Host.Core} {k : Nat} {s t : M.State} (h : M.run (k + 1) s = .next t) :
    ∃ u, M.step s = .next u ∧ M.run k u = .next t := by
  rw [Host.Core.run] at h
  split at h
  · next u hu => exact ⟨u, hu, h⟩
  · cases h
  · cases h

theorem run_faultKept (k : Nat) {s t : State} (hf : s.faulted = true) (hc : s.cause.toNat < 16) (hp : s.pending = none)
    (hreset : ∀ command, HostAct.issue command ∈ s.inbox → decode command ≠ .ok .blkReset)
    (h : Host.Core.run Sys2Proof.core k s = .next t) : FaultKept s t := by
  induction k generalizing s with
  | zero =>
    cases h
    exact .refl hp
  | succ k ih =>
    obtain ⟨u, hstep, hrun⟩ := core_run_succ h
    have hfirst := step_faultKept hf hc hp hreset hstep
    exact hfirst.trans (ih (hfirst.faulted.trans hf) (hfirst.cause ▸ hc) hfirst.pending
      (fun command hmem => hreset command (hfirst.inbox hmem)) hrun)

/-! ## Status, reset and configuration (R110, R115, R912, R913, R952) -/

section Block

variable {s : State}

theorem blkStatus_answers (hc : s.cause.toNat < 16) : answers s .blkStatus .ok (.status s.faultWord s.faultInfo) :=
  unguarded_legal hc _

/-- Each bit of `FAULT` lies in one of its four fields (R110). -/
theorem faultWord_getLsbD (s : State) (k : Nat) : s.faultWord.getLsbD k =
    if k < 8 then if k < 2 then if k < 1 then (BitVec.ofBool s.faulted).getLsbD k else (BitVec.ofBool s.eos).getLsbD (k - 1)
      else (0#6).getLsbD (k - 2) else s.cause.getLsbD (k - 8) := by
  refine (BitVec.getLsbD_append (x := s.cause) (y := 0#6 ++ (BitVec.ofBool s.eos ++ BitVec.ofBool s.faulted))).trans ?_
  rw [BitVec.getLsbD_append, BitVec.getLsbD_append]

theorem faultWord_fields (s : State) : s.faultWord.getLsbD 0 = s.faulted ∧ s.faultWord.getLsbD 1 = s.eos ∧
    s.faultWord.extractLsb' 2 6 = 0#6 ∧ s.faultWord.extractLsb' 8 8 = s.cause := by
  refine ⟨?_, ?_, ?_, ?_⟩
  · rw [faultWord_getLsbD]
    simp
  · rw [faultWord_getLsbD]
    simp
  · ext k hk
    rw [BitVec.getElem_extractLsb', faultWord_getLsbD]
    simp [show 2 + k < 8 by omega]
  · ext k hk
    rw [BitVec.getElem_extractLsb', faultWord_getLsbD]
    simp [hk]
theorem blkConfig_answers (h : s.ready) {n : BitVec 8} {v : BitVec 64} (hv : cfgRegister s.cfg n.toNat = some v) :
    answers s (.blkConfig n) .ok (.bits 64 v) := by
  rw [answers, exec, execBlkConfig, guarded_ready h, hv]
  rfl

theorem blkConfig_faults (h : s.ready) {n : BitVec 8} (hn : cfgRegister s.cfg n.toNat = none) :
    faults s (.blkConfig n) .badOperand (n.setWidth 64) := by
  rw [faults, exec, execBlkConfig, guarded_ready h, hn]
  rfl

theorem cfgRegister_of_gt (o : Config.Options) {n : Nat} (h : 12 < n) : cfgRegister o n = none := by
  obtain ⟨m, rfl⟩ := Nat.exists_eq_add_of_le h
  rw [Nat.add_comm]
  rfl

end Block

end Sys2Proof.Machine

namespace Sys2Proof.Proofs

open Sys2Proof Sys2Proof.Machine

/-- Settles O9: of the three ends of a command only the fault answers with one, and it is a fault on the state of before. -/
theorem faultsArePrecise : Obligations.FaultsArePrecise := by
  unfold Obligations.FaultsArePrecise
  exact fun i s t c info h hresp => exec_fault h hresp

/-- Settles O10: each command's faults are in its rows, and a host advance has the last left edge beside them. -/
theorem onlyTheListedCommandsRaiseACause : Obligations.OnlyTheListedCommandsRaiseACause := by
  unfold Obligations.OnlyTheListedCommandsRaiseACause
  exact fun i s t c info h hresp => exec_listedFault h c info hresp

/-- Settles O12: one step of a faulted block keeps the fault and the pipeline, so any number of steps does. -/
theorem theFirstFaultStaysUntilReset : Obligations.TheFirstFaultStaysUntilReset := by
  unfold Obligations.TheFirstFaultStaysUntilReset
  intro k s t hf hc hp hreset hrun
  have h := run_faultKept k hf hc hp hreset hrun
  exact ⟨h.faulted.trans hf, h.cause, h.faultInfo, h.wpos, h.dprev, h.dstate, h.frame, h.table, h.lastNs, h.ev, h.taken, h.cfg,
    h.pending⟩

/-- Settles O6: the step takes the action, with no command waiting or for the one that waits. -/
theorem hostActions : Obligations.HostActions := by
  unfold Obligations.HostActions
  refine ⟨fun s rest bs hc => ⟨fun hp hinbox => ?_, fun hp hinbox => ?_, fun hp hinbox => ?_, step_of_no_action hc,
    fun i hp hinbox => ?_⟩, fun s i rest bs hc hp => ⟨fun hinbox => ?_, fun hinbox => ?_⟩, fun s i rest hc hp hinbox => ?_⟩
  · rw [step, fetch_idle hc hp hinbox, fetchIdle, deliver_eq]
  · rw [step, fetch_idle hc hp hinbox, fetchIdle, State.signalEos]
  · rw [step, fetch_idle hc hp hinbox, fetchIdle]
  · rw [step, fetch_waiting hc hp hinbox, fetchWaiting]
  · rw [step, fetch_waiting hc hp hinbox, fetchWaiting, deliver_eq]
  · rw [step, fetch_waiting hc hp hinbox, fetchWaiting, State.signalEos]
  · rw [step, fetch_waiting hc hp hinbox, fetchWaiting]
    rfl

/-- Settles O11: the checks of R906 and R907 stand in front of every command. -/
theorem faultedBlockRefusesCommands : Obligations.FaultedBlockRefusesCommands := by
  unfold Obligations.FaultedBlockRefusesCommands
  exact ⟨fun i s hf hc hstatus hreset => exec_faulted hf hc hstatus hreset, fun i s hc => exec_reserved hc i,
    fun s hc => step_reserved hc⟩

/-- Settles O13: the two commands stand behind the check of R906 alone, and the word of `FAULT` is made of its fields. -/
theorem statusAndResetRunWhenFaulted : Obligations.StatusAndResetRunWhenFaulted := by
  unfold Obligations.StatusAndResetRunWhenFaulted
  exact ⟨fun s hc => ⟨s.faultWord, blkStatus_answers hc, faultWord_fields s⟩,
    fun s hc => (exec_blkReset s).trans (unguarded_legal hc _)⟩

/-- Settles O14: the registers are read off one by one, the word of the options for each value of the OPEN ones. -/
theorem configReadsTheConstants : Obligations.ConfigReadsTheConstants := by
  unfold Obligations.ConfigReadsTheConstants
  intro s e k h hcfg
  refine ⟨fun n v hv => blkConfig_answers h ?_, fun n hn => blkConfig_faults h (cfgRegister_of_gt _ hn)⟩
  rw [hcfg]
  obtain ⟨hlt, rfl⟩ := List.getElem?_eq_some_iff.mp hv
  generalize n.toNat = r at *
  have hr : r < 13 := hlt
  rcases Nat.lt_succ_iff_lt_or_eq.mp hr with hconstant | rfl
  · interval_cases r <;> rfl
  · cases e <;> cases k <;> rfl

end Sys2Proof.Proofs
end

section
/-! PROOFS. The CPR merger: 48_cpr.md R800 to R816. Every angle of the model is a numerator over a denominator; each law says
which rational number that is, and a rounded rational has one value only. -/

namespace Sys2Proof.Machine

/-! ## Rounding (R33, R802, D25) -/

section Round

variable {tie : Config.RoundTie}

/-- A rounded number is at most one half away. -/
theorem isRound.near {q : ℚ} {z : ℤ} (h : isRound tie q z) : |q - z| ≤ 1 / 2 := by
  obtain h | ⟨h, -⟩ := h
  · exact h.le
  · exact h.le

theorem int_eq_of_abs_sub_lt {q : ℚ} {a b : ℤ} (ha : |q - a| ≤ 1 / 2) (hb : |q - b| < 1 / 2) : a = b := by
  rw [abs_le] at ha
  rw [abs_lt] at hb
  have hlow : (a : ℚ) - b < 1 := by linarith
  have hhigh : (b : ℚ) - a < 1 := by linarith
  have hlow' : a - b < 1 := by exact_mod_cast hlow
  have hhigh' : b - a < 1 := by exact_mod_cast hhigh
  omega

/-- Two integers at most one half away differ by 1 at most. -/
theorem int_sub_le_of_abs_sub_le {q : ℚ} {a b : ℤ} (ha : |q - a| ≤ 1 / 2) (hb : |q - b| ≤ 1 / 2) : a - b ≤ 1 := by
  rw [abs_le] at ha hb
  have h : (a : ℚ) - b ≤ 1 := by linarith
  exact_mod_cast h

/-- `round` has one value: between two candidates at distance 1 the tie rule decides. -/
theorem isRound.unique {q : ℚ} {a b : ℤ} (ha : isRound tie q a) (hb : isRound tie q b) : a = b := by
  obtain hb' | ⟨hb', htieb⟩ := hb
  · exact int_eq_of_abs_sub_lt ha.near hb'
  obtain ha' | ⟨ha', htiea⟩ := ha
  · exact (int_eq_of_abs_sub_lt hb'.le ha').symm
  cases tie with
  | halfUp => exact_mod_cast htiea.trans htieb.symm
  | halfEven =>
    have hab := int_sub_le_of_abs_sub_le ha'.le hb'.le
    have hba := int_sub_le_of_abs_sub_le hb'.le ha'.le
    obtain ⟨i, rfl⟩ := htiea
    obtain ⟨j, rfl⟩ := htieb
    omega

theorem roundDiv_isRound (tie : Config.RoundTie) (n : ℤ) {d : Nat} (hd : 0 < d) :
    isRound tie ((n : ℚ) / d) (roundDiv tie n d) := by
  have hd' : (0 : ℚ) < d := by exact_mod_cast hd
  have hsplit : (n : ℚ) / d = (n / (d : ℤ) : ℤ) + ((n % (d : ℤ) : ℤ) : ℚ) / d := by
    rw [div_eq_iff hd'.ne', add_mul, div_mul_cancel₀ _ hd'.ne', mul_comm]
    exact_mod_cast (Int.mul_ediv_add_emod n d).symm
  have hnonneg : 0 ≤ n % (d : ℤ) := Int.emod_nonneg _ (by omega)
  have hlt : n % (d : ℤ) < d := Int.emod_lt_of_pos _ (by omega)
  rw [hsplit]
  unfold roundDiv
  dsimp only
  generalize n / (d : ℤ) = q
  generalize n % (d : ℤ) = r at *
  have hdown : |(q : ℚ) + r / d - q| = r / d := by
    rw [add_sub_cancel_left, abs_of_nonneg (div_nonneg (by exact_mod_cast hnonneg) hd'.le)]
  have hup : |(q : ℚ) + r / d - (q + 1 : ℤ)| = 1 - r / d := by
    have : (r : ℚ) / d < 1 := (div_lt_one hd').mpr (by exact_mod_cast hlt)
    push_cast
    rw [add_sub_add_left_eq_sub, abs_sub_comm, abs_of_pos (by linarith)]
  have hhalf (h : 2 * r = d) : (r : ℚ) / d = 1 / 2 := by
    rw [div_eq_div_iff hd'.ne' two_ne_zero]
    exact_mod_cast (by omega : r * 2 = 1 * d)
  split
  · next hlow =>
    refine .inl (hdown.trans_lt ?_)
    rw [div_lt_div_iff₀ hd' two_pos]
    exact_mod_cast (by omega : r * 2 < 1 * d)
  · split
    · next hhigh =>
      have : (1 : ℚ) / 2 < r / d := by
        rw [div_lt_div_iff₀ two_pos hd']
        exact_mod_cast (by omega : 1 * d < r * 2)
      exact .inl (hup.trans_lt (by linarith))
    · have hr := hhalf (by omega)
      cases tie with
      | halfUp => exact .inr ⟨by rw [hup, hr]; norm_num, by rw [hr]; push_cast; ring⟩
      | halfEven =>
        dsimp only
        split
        · next heven => exact .inr ⟨by rw [hdown, hr], Int.even_iff.mpr heven⟩
        · next hodd => exact .inr ⟨by rw [hup, hr]; norm_num, (Int.not_even_iff_odd.mp (mt Int.even_iff.mp hodd)).add_one⟩

theorem roundDiv_eq {q : ℚ} {n z : ℤ} {d : Nat} (hd : 0 < d) (hq : q = n / d) (h : isRound tie q z) : roundDiv tie n d = z :=
  (roundDiv_isRound tie n hd).unique (hq ▸ h)

/-- The rounded quotient is within half a denominator. -/
theorem roundDiv_near (tie : Config.RoundTie) (n : ℤ) {d : Nat} (hd : 0 < d) :
    -(d : ℤ) ≤ 2 * (n - roundDiv tie n d * d) ∧ 2 * (n - roundDiv tie n d * d) ≤ d := by
  have hd' : (0 : ℚ) < d := by exact_mod_cast hd
  obtain ⟨hlow, hhigh⟩ := abs_le.mp (roundDiv_isRound tie n hd).near
  generalize roundDiv tie n d = z at *
  have hlow' : -(d : ℚ) ≤ 2 * (n - z * d) := by
    have := mul_le_mul_of_nonneg_right hlow hd'.le
    rw [sub_mul, div_mul_cancel₀ _ hd'.ne'] at this
    linarith
  have hhigh' : 2 * (n - z * d) ≤ (d : ℚ) := by
    have := mul_le_mul_of_nonneg_right hhigh hd'.le
    rw [sub_mul, div_mul_cancel₀ _ hd'.ne'] at this
    linarith
  exact ⟨by exact_mod_cast hlow', by exact_mod_cast hhigh'⟩

theorem roundDiv_zero (tie : Config.RoundTie) {d : Nat} (hd : 0 < d) : roundDiv tie 0 d = 0 :=
  roundDiv_eq hd (q := 0) (by simp) (.inl (by norm_num))

theorem toT32_zero (tie : Config.RoundTie) {d : Nat} (hd : 0 < d) : toT32 tie 0 d = 0 := by
  rw [toT32, zero_mul, roundDiv_zero tie hd]

theorem toT32_eq {q : ℚ} {n z : ℤ} {d : Nat} (hd : 0 < d) (hq : q = n / d) (h : isRound tie (q * 2 ^ 32) z) :
    toT32 tie n d = z := by
  refine roundDiv_eq hd ?_ h
  rw [hq, div_mul_eq_mul_div]
  push_cast
  rfl

end Round

/-! ## Angles (R801, R803, R804) -/

theorem cprScale_pos : 0 < cprScale := by decide

theorem localFraction_eq (v : BitVec 17) : localFraction v = v.toNat / cprScale := by
  norm_num [localFraction, cprScale]

theorem wrapTurn_turns (n : ℤ) {d : Nat} (hd : 0 < d) : (wrapTurn n d : ℚ) / d = wrapTurns (n / d) := by
  have hd' : (0 : ℚ) < d := by exact_mod_cast hd
  have hiff : (1 : ℚ) / 2 ≤ n / d ↔ (d : ℤ) ≤ 2 * n := by
    rw [div_le_div_iff₀ two_pos hd', one_mul, mul_comm]
    exact_mod_cast Iff.rfl
  unfold wrapTurn wrapTurns
  by_cases h : (d : ℤ) ≤ 2 * n
  · rw [if_pos h, if_pos (hiff.mpr h)]
    push_cast
    rw [sub_div, div_self hd'.ne']
  · rw [if_neg h, if_neg (mt hiff.mp h)]

theorem zoneAngle_turns (z : ℤ) (v : BitVec 17) {zones : Nat} (h : 0 < zones) :
    (zoneAngle z v zones : ℚ) / (zones * cprScale : ℕ) = wrapTurns ((z + localFraction v) / zones) := by
  have hz : (zones : ℚ) ≠ 0 := by exact_mod_cast h.ne'
  have hs : (cprScale : ℚ) ≠ 0 := by exact_mod_cast cprScale_pos.ne'
  rw [zoneAngle, wrapTurn_turns _ (Nat.mul_pos h cprScale_pos), localFraction_eq]
  congr 1
  push_cast
  field_simp

/-- The angle of a zone index, re-indexed, as the model holds it (R803, R804). -/
theorem zoneTurns_eq (j : ℤ) (v : BitVec 17) {zones : Nat} (h : 0 < zones) :
    zoneTurns zones j v = zoneAngle (reindex j zones) v zones / (zones * cprScale : ℕ) := by
  rw [zoneAngle_turns _ _ h, zoneTurns, reindex]

/-- Half a turn on either side, as a numerator and its denominator. -/
def halfTurn (q : ℤ × Nat) : Prop := -(q.2 : ℤ) ≤ 2 * q.1 ∧ 2 * q.1 < q.2

/-- Wrapping brings an angle from half a turn below 0 to one and a half turns into half a turn on either side. -/
theorem wrapTurn_halfTurn {n : ℤ} {d : Nat} (hlow : -(d : ℤ) ≤ 2 * n) (hhigh : 2 * n < 3 * d) : halfTurn (wrapTurn n d, d) := by
  unfold halfTurn wrapTurn
  dsimp only
  split
  · omega
  · omega

theorem zoneAngle_zero_halfTurn (v : BitVec 17) : halfTurn (zoneAngle 0 v 1, cprScale) := by
  have hv := v.isLt
  have h : (1 : ℕ) * cprScale = cprScale := one_mul _
  rw [zoneAngle, h]
  refine wrapTurn_halfTurn ?_ ?_
  · unfold cprScale
    omega
  · unfold cprScale
    omega

/-- The index may be one off at either end of its zones, and the angle is still in half a turn on either side. -/
theorem zoneAngle_reindex_halfTurn {j : ℤ} {zones : Nat} (hzones : 2 ≤ zones) (hlow : -(zones : ℤ) - 1 ≤ j) (hhigh : j ≤ zones)
    (v : BitVec 17) : halfTurn (zoneAngle (reindex j zones) v zones, zones * cprScale) := by
  have hv := v.isLt
  have hindex : -1 ≤ reindex j zones ∧ reindex j zones ≤ zones := by
    unfold reindex
    split
    · omega
    · omega
  refine wrapTurn_halfTurn ?_ ?_
  · unfold cprScale
    omega
  · unfold cprScale
    omega

/-! ## Latitudes (R802 to R804) -/

theorem latIndex_eq {tie : Config.RoundTie} {y0 y1 : BitVec 17} {j : ℤ}
    (h : isRound tie (59 * localFraction y0 - 60 * localFraction y1) j) : latIndex tie y0 y1 = j := by
  refine roundDiv_eq cprScale_pos ?_ h
  rw [localFraction_eq, localFraction_eq]
  push_cast
  ring

theorem latIndex_bounds (tie : Config.RoundTie) (y0 y1 : BitVec 17) : -60 ≤ latIndex tie y0 y1 ∧ latIndex tie y0 y1 ≤ 59 := by
  have h0 := y0.isLt
  have h1 := y1.isLt
  have hnear := roundDiv_near tie (59 * (y0.toNat : ℤ) - 60 * (y1.toNat : ℤ)) cprScale_pos
  unfold latIndex
  unfold cprScale at *
  omega

theorem latEven_halfTurn (tie : Config.RoundTie) (y0 y1 : BitVec 17) : halfTurn (latEven tie y0 y1, 60 * cprScale) := by
  have hindex := latIndex_bounds tie y0 y1
  exact zoneAngle_reindex_halfTurn (by decide) (by omega) (by omega) y0

theorem latOdd_halfTurn (tie : Config.RoundTie) (y0 y1 : BitVec 17) : halfTurn (latOdd tie y0 y1, 59 * cprScale) := by
  have hindex := latIndex_bounds tie y0 y1
  exact zoneAngle_reindex_halfTurn (by decide) (by omega) (by omega) y1

/-! ## The table of R807 -/

/-- The latitudes of the table rise, and all lie below φ_2 = 29/120. -/
theorem phi_sorted : (phiHigh ++ phiLow).Pairwise (· < ·) := by decide

theorem phi_below_87 : ∀ phi ∈ phiHigh ++ phiLow, 120 * phi < 29 * 10 ^ 18 := by decide

theorem transitions_length : transitions.length = 57 := rfl

/-- The latitudes of the table in units of 10^−18 turn. -/
theorem transitions_eq_phi :
    transitions.map Prod.snd = (phiHigh ++ phiLow).map fun (phi : Nat) => (phi : ℚ) / 10 ^ 18 := by
  rw [transitions_latitudes]
  simp [List.map_eq_flatMap, List.flatMap_assoc]

theorem transitions_sorted : transitions.Pairwise fun e f => e.2 < f.2 := by
  have h : (transitions.map Prod.snd).Pairwise (· < ·) := by
    rw [transitions_eq_phi, List.pairwise_map]
    exact phi_sorted.imp fun hlt => (div_lt_div_iff_of_pos_right (by positivity)).mpr (by exact_mod_cast hlt)
  exact List.pairwise_map.mp h

theorem exists_phi_of_mem_transitions {e : Nat × ℚ} (h : e ∈ transitions) :
    ∃ phi ∈ phiHigh ++ phiLow, e.2 = (phi : ℚ) / 10 ^ 18 := by
  have hmem : e.2 ∈ transitions.map Prod.snd := List.mem_map_of_mem h
  rw [transitions_eq_phi] at hmem
  obtain ⟨phi, hphi, heq⟩ := List.mem_map.mp hmem
  exact ⟨phi, hphi, heq.symm⟩

theorem transitions_nonneg {e : Nat × ℚ} (h : e ∈ transitions) : 0 ≤ e.2 := by
  obtain ⟨phi, -, heq⟩ := exists_phi_of_mem_transitions h
  rw [heq]
  positivity

theorem transitions_below_87 {e : Nat × ℚ} (h : e ∈ transitions) : e.2 < 29 / 120 := by
  obtain ⟨phi, hphi, heq⟩ := exists_phi_of_mem_transitions h
  rw [heq, div_lt_div_iff₀ (by positivity) (by norm_num), mul_comm]
  exact_mod_cast phi_below_87 phi hphi

/-- Row `i` of the table is that of `n = 59 − i`. -/
theorem row_of_getElem? {i k : Nat} {phi : ℚ} (h : transitions[i]? = some (k, phi)) : i < 57 ∧ k = 59 - i := by
  obtain ⟨hi, -⟩ := List.getElem?_eq_some_iff.mp h
  have hk : (transitions.map Prod.fst)[i]? = some k := by rw [List.getElem?_map, h]; rfl
  rw [transitions_rows, List.getElem?_map, List.getElem?_range (transitions_length ▸ hi)] at hk
  exact ⟨hi, (Option.some.inj hk).symm⟩

theorem transitions_mono {i j : Nat} {e f : Nat × ℚ} (he : transitions[i]? = some e) (hf : transitions[j]? = some f)
    (hij : i ≤ j) : e.2 ≤ f.2 := by
  obtain ⟨hi, rfl⟩ := List.getElem?_eq_some_iff.mp he
  obtain ⟨hj, rfl⟩ := List.getElem?_eq_some_iff.mp hf
  rcases hij.lt_or_eq with hlt | rfl
  · exact (List.pairwise_iff_getElem.mp transitions_sorted i j hi hj hlt).le
  · exact le_rfl

/-! ## Zone counts as a function of the folded latitude (R805 to R807) -/

/-- The folded latitude of R807, in turns. -/
def foldTurns (lat : ℚ) : ℚ := if |lat| ≤ 1 / 4 then |lat| else 1 / 2 - |lat|

/-- `NL` of a folded latitude. -/
def zonesOf (o : Config.Options) (t : ℚ) : Nat :=
  if t = 0 then (match o.nlEquator with | .n60 => 60 | .n59 => 59)
  else if t = 29 / 120 then (match o.nl87 with | .n2 => 2 | .n1 => 1)
  else if 29 / 120 < t then 1
  else 2 + transitions.countP fun e => decide (t < e.2)

theorem zonesAt_eq_zonesOf (o : Config.Options) (lat : ℚ) : zonesAt o lat = zonesOf o (foldTurns lat) := rfl

section Zones

variable (o : Config.Options)

theorem zonesOf_zero : zonesOf o 0 = match o.nlEquator with | .n60 => 60 | .n59 => 59 := if_pos rfl

theorem zonesOf_87 : zonesOf o (29 / 120) = match o.nl87 with | .n2 => 2 | .n1 => 1 := by
  rw [zonesOf, if_neg (by norm_num), if_pos rfl]

theorem zonesOf_polar {t : ℚ} (h : 29 / 120 < t) : zonesOf o t = 1 := by
  rw [zonesOf, if_neg (by linarith), if_neg h.ne', if_pos h]

theorem zonesOf_between {t : ℚ} (h0 : 0 < t) (h87 : t < 29 / 120) :
    zonesOf o t = 2 + transitions.countP fun e => decide (t < e.2) := by
  rw [zonesOf, if_neg h0.ne', if_neg h87.ne, if_neg h87.not_gt]

theorem one_le_zonesOf (t : ℚ) : 1 ≤ zonesOf o t := by
  unfold zonesOf
  split
  · cases o.nlEquator <;> decide
  · split
    · cases o.nl87 <;> decide
    · split <;> omega

/-- Off the equator there are at most 59 zones. -/
theorem zonesOf_le_59 {t : ℚ} (h : t ≠ 0) : zonesOf o t ≤ 59 := by
  have hcount := List.countP_le_length (p := fun e => decide (t < e.2)) (l := transitions)
  rw [transitions_length] at hcount
  rw [zonesOf, if_neg h]
  split
  · cases o.nl87 <;> decide
  · split <;> omega

theorem fifty_nine_le_zonesOf_zero : 59 ≤ zonesOf o 0 := by
  rw [zonesOf_zero]
  cases o.nlEquator <;> decide

theorem zonesOf_le_60 (t : ℚ) : zonesOf o t ≤ 60 := by
  by_cases h : t = 0
  · rw [h, zonesOf_zero]
    cases o.nlEquator <;> decide
  · exact (zonesOf_le_59 o h).trans (by decide)

/-- A zone count never grows away from the equator. -/
theorem zonesOf_anti {t u : ℚ} (h0 : 0 ≤ t) (h : t ≤ u) : zonesOf o u ≤ zonesOf o t := by
  rcases h0.eq_or_lt with rfl | h0
  · by_cases hu : u = 0
    · rw [hu]
    · exact (zonesOf_le_59 o hu).trans (fifty_nine_le_zonesOf_zero o)
  rcases lt_trichotomy u (29 / 120) with hu | rfl | hu
  · rw [zonesOf_between o (h0.trans_le h) hu, zonesOf_between o h0 (h.trans_lt hu)]
    refine Nat.add_le_add_left (List.countP_mono_left fun e _ he => ?_) 2
    exact decide_eq_true (h.trans_lt (of_decide_eq_true he))
  · rcases h.eq_or_lt with rfl | h
    · exact le_rfl
    · rw [zonesOf_between o h0 h, zonesOf_87]
      cases o.nl87
      · exact Nat.le_add_right 2 _
      · exact (by decide : 1 ≤ 2).trans (Nat.le_add_right 2 _)
  · rw [zonesOf_polar o hu]
    exact one_le_zonesOf o t

/-- Between two rows of the table the zone count is that of the row (R807). -/
theorem zonesOf_row {i : Nat} (hi : i ≤ 57) {t : ℚ} (h0 : 0 < t) (h87 : t < 29 / 120)
    (hbelow : ∀ j e, transitions[j]? = some e → j < i → e.2 ≤ t) (habove : ∀ j e, transitions[j]? = some e → i ≤ j → t < e.2) :
    zonesOf o t = 59 - i := by
  have htake : (transitions.take i).countP (fun e => decide (t < e.2)) = 0 := by
    refine List.countP_eq_zero.mpr fun e he => ?_
    obtain ⟨j, hj, rfl⟩ := List.mem_take_iff_getElem.mp he
    rw [decide_eq_true_eq, not_lt]
    exact hbelow j _ (List.getElem?_eq_getElem _) (by omega)
  have hdrop : (transitions.drop i).countP (fun e => decide (t < e.2)) = (transitions.drop i).length := by
    refine List.countP_eq_length.mpr fun e he => ?_
    obtain ⟨j, hj, rfl⟩ := List.mem_drop_iff_getElem.mp he
    exact decide_eq_true (habove _ _ (List.getElem?_eq_getElem _) (Nat.le_add_right i j))
  rw [zonesOf_between o h0 h87, ← List.take_append_drop i transitions, List.countP_append, htake, hdrop, List.length_drop,
    transitions_length]
  omega

/-- Row `k` of the table, whose latitude lies above `t` and that of row `k + 1` below. -/
theorem zonesOf_band {k : Nat} {phi t : ℚ} (hrow : (k, phi) ∈ transitions) (h0 : 0 < t) (hphi : t < phi)
    (hnext : ∀ phi', (k + 1, phi') ∈ transitions → phi' < t) : zonesOf o t = k := by
  obtain ⟨i, hi⟩ := List.mem_iff_getElem?.mp hrow
  obtain ⟨hlt, hk⟩ := row_of_getElem? hi
  rw [hk]
  refine zonesOf_row o hlt.le h0 (hphi.trans (transitions_below_87 hrow)) (fun j e he hj => ?_)
    fun j e he hj => hphi.trans_le (transitions_mono hi he hj)
  obtain ⟨m, rfl⟩ := Nat.exists_eq_succ_of_ne_zero (Nat.ne_zero_of_lt hj)
  obtain ⟨⟨l, psi⟩, hm⟩ : ∃ f, transitions[m]? = some f :=
    ⟨_, List.getElem?_eq_getElem (by rw [transitions_length]; omega)⟩
  have hl : l = k + 1 := by have := (row_of_getElem? hm).2; omega
  exact (transitions_mono he hm (by omega)).trans (hnext psi (hl ▸ List.mem_of_getElem? hm)).le

/-- Between φ_3 and φ_2 there are two zones. -/
theorem zonesOf_two {phi t : ℚ} (hrow : (3, phi) ∈ transitions) (h : phi < t) (h87 : t < 29 / 120) : zonesOf o t = 2 := by
  obtain ⟨i, hi⟩ := List.mem_iff_getElem?.mp hrow
  obtain ⟨hlt, hk⟩ := row_of_getElem? hi
  refine zonesOf_row o le_rfl ((transitions_nonneg hrow).trans_lt h) h87 (fun j e he hj => ?_) fun j e he hj => ?_
  · exact (transitions_mono he hi (by omega)).trans h.le
  · exact absurd (row_of_getElem? he).1 (Nat.not_lt.mpr hj)

end Zones

/-! ## The zone count of a numerator over a denominator (R807) -/

section ZoneCount

variable {n : ℤ} {d : Nat}

/-- The folded latitude in turns. -/
def foldedTurns (n : ℤ) (d : Nat) : ℚ := (foldLat n d : ℚ) / (2 * d)

theorem zoneCount_eq_zonesOf (o : Config.Options) (n : ℤ) (hd : 0 < d) : zoneCount o n d = zonesOf o (foldedTurns n d) := by
  have hd' : (0 : ℚ) < 2 * d := by exact_mod_cast Nat.mul_pos two_pos hd
  unfold zoneCount foldedTurns
  dsimp only
  generalize foldLat n d = t
  have hzero : (t : ℚ) / (2 * d) = 0 ↔ t = 0 := by
    rw [div_eq_zero_iff, or_iff_left hd'.ne', Nat.cast_eq_zero]
  have h87 : (t : ℚ) / (2 * d) = 29 / 120 ↔ 60 * t = 29 * d := by
    rw [div_eq_div_iff hd'.ne' (by norm_num)]
    constructor
    · intro h
      have : t * 120 = 29 * (2 * d) := by exact_mod_cast h
      omega
    · intro h
      exact_mod_cast (by omega : t * 120 = 29 * (2 * d))
  have hpolar : 29 / 120 < (t : ℚ) / (2 * d) ↔ 29 * d < 60 * t := by
    rw [div_lt_div_iff₀ (by norm_num) hd']
    constructor
    · intro h
      have : 29 * (2 * d) < t * 120 := by exact_mod_cast h
      omega
    · intro h
      exact_mod_cast (by omega : 29 * (2 * d) < t * 120)
  have hcount : (phiHigh ++ phiLow).countP (fun phi => decide (t * 10 ^ 18 < phi * (2 * d))) =
      transitions.countP fun e => decide ((t : ℚ) / (2 * d) < e.2) := by
    calc (phiHigh ++ phiLow).countP (fun phi => decide (t * 10 ^ 18 < phi * (2 * d)))
        = (transitions.map Prod.snd).countP (fun x => decide ((t : ℚ) / (2 * d) < x)) := by
          rw [transitions_eq_phi, List.countP_map]
          refine List.countP_congr fun phi _ => ?_
          rw [decide_eq_true_eq, Function.comp_apply, decide_eq_true_eq, div_lt_div_iff₀ hd' (by positivity)]
          exact_mod_cast Iff.rfl
      _ = transitions.countP fun e => decide ((t : ℚ) / (2 * d) < e.2) := List.countP_map
  exact if_congr hzero.symm rfl (if_congr h87.symm rfl (if_congr hpolar.symm rfl (congrArg (2 + ·) hcount)))

theorem foldedTurns_neg (n : ℤ) (d : Nat) : foldedTurns (-n) d = foldedTurns n d := by
  rw [foldedTurns, foldedTurns, foldLat, foldLat, Int.natAbs_neg]

/-- Up to a quarter turn the folded latitude is the latitude without its sign. -/
theorem foldedTurns_of_le (h : 4 * n.natAbs ≤ d) : foldedTurns n d = (n.natAbs : ℚ) / d := by
  rw [foldedTurns, foldLat, if_pos h]
  push_cast
  exact mul_div_mul_left _ _ two_ne_zero

theorem foldedTurns_zero (d : Nat) : foldedTurns 0 d = 0 := by
  rw [foldedTurns_of_le (Nat.zero_le d), Int.natAbs_zero, Nat.cast_zero, zero_div]

/-- A latitude and its mirror image `1/2 − |lat|` are folded into one. -/
theorem foldedTurns_mirror (hd : 0 < d) (h : 2 * n.natAbs ≤ d) :
    foldedTurns (d - 2 * n.natAbs) (2 * d) = foldedTurns n d := by
  have hd' : (d : ℚ) ≠ 0 := by exact_mod_cast hd.ne'
  have hfold : foldLat (d - 2 * n.natAbs) (2 * d) = 2 * foldLat n d := by
    have habs : ((d : ℤ) - 2 * n.natAbs).natAbs = d - 2 * n.natAbs := by omega
    unfold foldLat
    rw [habs]
    split_ifs <;> omega
  rw [foldedTurns, foldedTurns, hfold]
  push_cast
  field_simp

/-- The folded latitude of a latitude of at most half a turn. -/
theorem foldedTurns_eq_foldTurns (hd : 0 < d) (h : 2 * n.natAbs ≤ d) : foldedTurns n d = foldTurns (n / d) := by
  have hd' : (0 : ℚ) < d := by exact_mod_cast hd
  have habs : |(n : ℚ) / d| = (n.natAbs : ℚ) / d := by rw [abs_div, Nat.abs_cast, Nat.cast_natAbs, Int.cast_abs]
  have hquarter : (n.natAbs : ℚ) / d ≤ 1 / 4 ↔ 4 * n.natAbs ≤ d := by
    rw [div_le_div_iff₀ hd' (by norm_num), one_mul, mul_comm]
    exact_mod_cast Iff.rfl
  unfold foldTurns
  rw [habs]
  by_cases hle : 4 * n.natAbs ≤ d
  · rw [if_pos (hquarter.mpr hle), foldedTurns_of_le hle]
  · rw [if_neg (mt hquarter.mp hle), foldedTurns, foldLat, if_neg hle, Nat.cast_sub h]
    push_cast
    field_simp

theorem zoneCount_eq_zonesAt (o : Config.Options) (hd : 0 < d) (h : halfTurn (n, d)) : zoneCount o n d = zonesAt o (n / d) := by
  obtain ⟨hlow, hhigh⟩ := h
  dsimp only at hlow hhigh
  rw [zoneCount_eq_zonesOf o n hd, foldedTurns_eq_foldTurns hd (by omega), zonesAt_eq_zonesOf]

end ZoneCount

/-! ## Longitudes (R809 to R811) -/

section Longitude

variable {tie : Config.RoundTie} {x0 x1 : BitVec 17} {nl : Nat}

theorem lonIndex_eq {m : ℤ} (h : isRound tie (localFraction x0 * (nl - 1) - localFraction x1 * nl) m) :
    lonIndex tie x0 x1 nl = m := by
  refine roundDiv_eq cprScale_pos ?_ h
  rw [localFraction_eq, localFraction_eq]
  push_cast
  ring

theorem lonEven_turns (hnl : 1 ≤ nl) : ((lonEven tie x0 x1 nl).1 : ℚ) / (lonEven tie x0 x1 nl).2 =
    longitudeTurns nl nl (lonIndex tie x0 x1 nl) x0 := by
  unfold lonEven longitudeTurns
  split
  · have h := zoneAngle_turns 0 x0 one_pos
    rw [one_mul, Int.cast_zero, zero_add, Nat.cast_one, div_one] at h
    exact h
  · exact (zoneTurns_eq _ _ hnl).symm

theorem lonOdd_turns (hnl : 1 ≤ nl) : ((lonOdd tie x0 x1 nl).1 : ℚ) / (lonOdd tie x0 x1 nl).2 =
    longitudeTurns nl (nl - 1) (lonIndex tie x0 x1 nl) x1 := by
  unfold lonOdd longitudeTurns
  split
  · have h := zoneAngle_turns 0 x1 one_pos
    rw [one_mul, Int.cast_zero, zero_add, Nat.cast_one, div_one] at h
    exact h
  · exact (zoneTurns_eq _ _ (by omega)).symm

theorem lonEven_den_pos (hnl : 1 ≤ nl) : 0 < (lonEven tie x0 x1 nl).2 := by
  unfold lonEven
  split
  · exact cprScale_pos
  · exact Nat.mul_pos hnl cprScale_pos

theorem lonOdd_den_pos (hnl : 1 ≤ nl) : 0 < (lonOdd tie x0 x1 nl).2 := by
  unfold lonOdd
  split
  · exact cprScale_pos
  · exact Nat.mul_pos (by omega) cprScale_pos

end Longitude

/-! ### Longitudes in T32 (R813) -/

section LongitudeBounds

variable (tie : Config.RoundTie) (x0 x1 : BitVec 17)

theorem lonIndex_bounds {nl : Nat} (hnl : 1 ≤ nl) :
    -(nl : ℤ) ≤ lonIndex tie x0 x1 nl ∧ lonIndex tie x0 x1 nl ≤ nl - 1 := by
  have h0 := x0.isLt
  have h1 := x1.isLt
  have hnear := roundDiv_near tie ((x0.toNat : ℤ) * ((nl : ℤ) - 1) - (x1.toNat : ℤ) * nl) cprScale_pos
  unfold lonIndex
  unfold cprScale at *
  have hlow : (x1.toNat : ℤ) * nl ≤ 131071 * nl := by nlinarith
  have hlow' : 0 ≤ (x1.toNat : ℤ) * nl := by positivity
  have hhigh : (x0.toNat : ℤ) * ((nl : ℤ) - 1) ≤ 131071 * (nl - 1) := by nlinarith
  have hhigh' : 0 ≤ (x0.toNat : ℤ) * ((nl : ℤ) - 1) := mul_nonneg (by positivity) (by omega)
  omega

theorem lonEven_halfTurn {nl : Nat} (hnl : 1 ≤ nl) : halfTurn (lonEven tie x0 x1 nl) := by
  have hindex := lonIndex_bounds tie x0 x1 hnl
  unfold lonEven
  split
  · exact zoneAngle_zero_halfTurn x0
  · exact zoneAngle_reindex_halfTurn (by omega) (by omega) (by omega) x0

/-- With two zones the one odd zone is a whole turn, and the index that is one off goes with the local longitude. -/
theorem lonOdd_two_halfTurn : halfTurn (lonOdd tie x0 x1 2) := by
  have h0 := x0.isLt
  have h1 := x1.isLt
  have hnear := roundDiv_near tie ((x0.toNat : ℤ) * (((2 : ℕ) : ℤ) - 1) - (x1.toNat : ℤ) * (2 : ℕ)) cprScale_pos
  rw [← lonIndex] at hnear
  unfold lonOdd halfTurn zoneAngle reindex wrapTurn
  rw [if_neg (by decide)]
  unfold cprScale at *
  dsimp only
  split <;> split <;> omega

theorem lonOdd_halfTurn {nl : Nat} (hnl : 1 ≤ nl) : halfTurn (lonOdd tie x0 x1 nl) := by
  by_cases htwo : nl = 2
  · exact htwo ▸ lonOdd_two_halfTurn tie x0 x1
  have hindex := lonIndex_bounds tie x0 x1 hnl
  unfold lonOdd
  split
  · exact zoneAngle_zero_halfTurn x1
  · exact zoneAngle_reindex_halfTurn (by omega) (by omega) (by omega) x1

/-- An angle of half a turn on either side stays in its 32-bit field, as its denominator is small (R813). -/
theorem toT32_bounds {q : ℤ × Nat} (h : halfTurn q) (hpos : 0 < q.2) (hsmall : q.2 ≤ 60 * cprScale) :
    -(2 ^ 31) ≤ toT32 tie q.1 q.2 ∧ toT32 tie q.1 q.2 < 2 ^ 31 := by
  obtain ⟨n, d⟩ := q
  obtain ⟨hlow, hhigh⟩ := h
  obtain ⟨hnear, hnear'⟩ := roundDiv_near tie (n * 2 ^ 32) hpos
  unfold toT32
  unfold cprScale at hsmall
  dsimp only at *
  generalize roundDiv tie (n * 2 ^ 32) d = t at *
  constructor
  · by_contra hlt
    have : t * d ≤ (-(2 ^ 31) - 1) * d := mul_le_mul_of_nonneg_right (by omega) (by omega)
    omega
  · by_contra hge
    have : 2 ^ 31 * (d : ℤ) ≤ t * d := mul_le_mul_of_nonneg_right (by omega) (by omega)
    omega

theorem lonEven_den_le {nl : Nat} (hnl : nl ≤ 60) : (lonEven tie x0 x1 nl).2 ≤ 60 * cprScale := by
  unfold lonEven
  split
  · exact Nat.le_mul_of_pos_left _ (by decide)
  · exact Nat.mul_le_mul_right _ hnl

theorem lonOdd_den_le {nl : Nat} (hnl : nl ≤ 60) : (lonOdd tie x0 x1 nl).2 ≤ 60 * cprScale := by
  unfold lonOdd
  split
  · exact Nat.le_mul_of_pos_left _ (by decide)
  · exact Nat.mul_le_mul_right _ (by omega)

theorem zoneAngle_zero {zones : Nat} (h : 0 < zones) : zoneAngle 0 0#17 zones = 0 := by
  have hpos := Nat.mul_pos h cprScale_pos
  unfold zoneAngle wrapTurn
  rw [if_neg (by simp; omega)]
  simp

theorem lonIndex_zero (nl : Nat) : lonIndex tie 0#17 0#17 nl = 0 := by
  rw [lonIndex, BitVec.toNat_zero, Nat.cast_zero, zero_mul, zero_mul, sub_zero, roundDiv_zero tie cprScale_pos]

theorem lonEven_zero {nl : Nat} (hnl : 1 ≤ nl) : (lonEven tie 0#17 0#17 nl).1 = 0 := by
  unfold lonEven
  split
  · exact zoneAngle_zero one_pos
  · rw [lonIndex_zero]
    exact zoneAngle_zero hnl

theorem lonOdd_zero {nl : Nat} (hnl : 1 ≤ nl) : (lonOdd tie 0#17 0#17 nl).1 = 0 := by
  unfold lonOdd
  split
  · exact zoneAngle_zero one_pos
  · rw [lonIndex_zero]
    exact zoneAngle_zero (by omega)

end LongitudeBounds

/-! ## The merge (R800, R808, R813, R814) -/

/-- The latitude that `recent` selects: a numerator and its denominator. -/
def selectedLat (tie : Config.RoundTie) (y0 y1 : BitVec 17) : Parity → ℤ × Nat
  | .even => (latEven tie y0 y1, 60 * cprScale)
  | .odd => (latOdd tie y0 y1, 59 * cprScale)

/-- The longitude that `recent` selects. -/
def selectedLon (tie : Config.RoundTie) (x0 x1 : BitVec 17) (nl : Nat) : Parity → ℤ × Nat
  | .even => lonEven tie x0 x1 nl
  | .odd => lonOdd tie x0 x1 nl

theorem selectedLat_den_pos (tie : Config.RoundTie) (y0 y1 : BitVec 17) (recent : Parity) :
    0 < (selectedLat tie y0 y1 recent).2 := by
  cases recent
  · exact Nat.mul_pos (by decide) cprScale_pos
  · exact Nat.mul_pos (by decide) cprScale_pos

theorem selectedLon_den_pos {tie : Config.RoundTie} {x0 x1 : BitVec 17} {nl : Nat} (hnl : 1 ≤ nl) (recent : Parity) :
    0 < (selectedLon tie x0 x1 nl recent).2 := by
  cases recent
  · exact lonEven_den_pos hnl
  · exact lonOdd_den_pos hnl

theorem selectedLat_zero (tie : Config.RoundTie) (recent : Parity) : (selectedLat tie 0#17 0#17 recent).1 = 0 := by
  cases tie <;> cases recent <;> decide

theorem selectedLon_zero (tie : Config.RoundTie) {nl : Nat} (hnl : 1 ≤ nl) (recent : Parity) :
    (selectedLon tie 0#17 0#17 nl recent).1 = 0 := by
  cases recent
  · exact lonEven_zero tie hnl
  · exact lonOdd_zero tie hnl

section Merge

variable {o : Config.Options} {x0 y0 x1 y1 : BitVec 17}

theorem cprMerge_zones_differ
    (h : zoneCount o (latEven o.roundTie y0 y1) (60 * cprScale) ≠ zoneCount o (latOdd o.roundTie y0 y1) (59 * cprScale))
    (recent : Parity) : cprMerge o x0 y0 x1 y1 recent = .indeterminate .indetZone := if_pos h

theorem cprMerge_zones_equal {nl : Nat} (h0 : zoneCount o (latEven o.roundTie y0 y1) (60 * cprScale) = nl)
    (h1 : zoneCount o (latOdd o.roundTie y0 y1) (59 * cprScale) = nl) (recent : Parity) {latT lonT : ℤ}
    (hlat : toT32 o.roundTie (selectedLat o.roundTie y0 y1 recent).1 (selectedLat o.roundTie y0 y1 recent).2 = latT)
    (hlon : toT32 o.roundTie (selectedLon o.roundTie x0 x1 nl recent).1 (selectedLon o.roundTie x0 x1 nl recent).2 = lonT) :
    cprMerge o x0 y0 x1 y1 recent =
      if 2 ^ 30 < latT.natAbs then .indeterminate .indetLat else .position ⟨BitVec.ofInt 32 lonT, BitVec.ofInt 32 latT⟩ := by
  subst hlat hlon h0
  unfold cprMerge
  dsimp only
  rw [if_neg (not_not_intro h1.symm)]
  cases recent
  · rfl
  · rfl

theorem exec_cprMerge {s : State} (h : s.ready) (recent : BitVec 1) {r : Merged}
    (hr : cprMerge s.cfg x0 y0 x1 y1 (recentParity recent) = r) : answers s (.cprMerge x0 y0 x1 y1 recent) r.outcome r.value := by
  subst hr
  exact guarded_ready h _

/-- Every merge gives a position in bounds or one of the two indeterminate outcomes (R800, R814). -/
theorem cprMerge_cases (o : Config.Options) (x0 y0 x1 y1 : BitVec 17) (recent : Parity) :
    (∃ geo : GeoPos, |geo.latT32.toInt| ≤ 2 ^ 30 ∧ cprMerge o x0 y0 x1 y1 recent = .position geo) ∨
      cprMerge o x0 y0 x1 y1 recent = .indeterminate .indetZone ∨
      cprMerge o x0 y0 x1 y1 recent = .indeterminate .indetLat := by
  by_cases hzones : zoneCount o (latOdd o.roundTie y0 y1) (59 * cprScale) =
      zoneCount o (latEven o.roundTie y0 y1) (60 * cprScale)
  · have hmerge := cprMerge_zones_equal (x0 := x0) (x1 := x1) rfl hzones recent rfl rfl
    split_ifs at hmerge
    · exact .inr (.inr hmerge)
    · refine .inl ⟨_, ?_, hmerge⟩
      rw [Int.abs_eq_natAbs]
      exact_mod_cast cprMerge_lat_le hmerge
  · exact .inr (.inl (cprMerge_zones_differ (Ne.symm hzones) recent))

/-- Four zeros merge into (0, 0), with either count of zones at the equator (R816). -/
theorem cprMerge_zero (o : Config.Options) (recent : Parity) :
    cprMerge o 0#17 0#17 0#17 0#17 recent = .position ⟨0#32, 0#32⟩ := by
  have heven : latEven o.roundTie 0#17 0#17 = 0 := selectedLat_zero _ .even
  have hodd : latOdd o.roundTie 0#17 0#17 = 0 := selectedLat_zero _ .odd
  have hzones (d : Nat) (hd : 0 < d) : zoneCount o 0 d = zonesOf o 0 := by
    rw [zoneCount_eq_zonesOf o 0 hd, foldedTurns_zero]
  have hmerge := cprMerge_zones_equal (x0 := 0#17) (x1 := 0#17) (heven ▸ hzones _ (by decide)) (hodd ▸ hzones _ (by decide))
    recent (latT := 0) (lonT := 0)
  have hnl := one_le_zonesOf o 0
  rw [hmerge]
  · rfl
  · rw [selectedLat_zero, toT32_zero _ (selectedLat_den_pos ..)]
  · rw [selectedLon_zero _ hnl, toT32_zero _ (selectedLon_den_pos hnl _)]

end Merge

end Sys2Proof.Machine

namespace Sys2Proof.Proofs

open Sys2Proof Sys2Proof.Machine

/-- Settles O50: the zone count is a function of the folded latitude that falls along the table of R807. -/
theorem zoneCountIsSymmetricAndFalls : Obligations.ZoneCountIsSymmetricAndFalls := by
  unfold Obligations.ZoneCountIsSymmetricAndFalls
  intro o n m d hd
  have hd' : (0 : ℚ) < d := by exact_mod_cast hd
  have hcount : ∀ {t : ℚ}, foldedTurns n d = t → zoneCount o n d = zonesOf o t :=
    fun ht => (zoneCount_eq_zonesOf o n hd).trans (congrArg _ ht)
  have hquarter {q : ℚ} (hlt : (n.natAbs : ℚ) / d < q) (hq : q ≤ 1 / 4) : 4 * n.natAbs ≤ d := by
    have := (div_le_div_iff₀ hd' (by norm_num)).mp (hlt.le.trans hq)
    rw [mul_comm, one_mul] at this
    exact_mod_cast this
  have h87 (h : 120 * n.natAbs < 29 * d) : (n.natAbs : ℚ) / d < 29 / 120 := by
    rw [div_lt_div_iff₀ hd' (by norm_num), mul_comm]
    exact_mod_cast h
  refine ⟨?_, ?_, ?_, ?_, ?_, ?_, ?_, ?_, ?_, ?_, ?_⟩
  · exact hcount rfl ▸ one_le_zonesOf o _
  · exact hcount rfl ▸ zonesOf_le_60 o _
  · rw [zoneCount_eq_zonesOf o _ hd, foldedTurns_neg, ← zoneCount_eq_zonesOf o n hd]
  · intro hle hm
    rw [zoneCount_eq_zonesOf o _ hd, zoneCount_eq_zonesOf o _ hd, foldedTurns_of_le hm, foldedTurns_of_le (by omega)]
    exact zonesOf_anti o (by positivity) (by gcongr)
  · intro h
    rw [zoneCount_eq_zonesOf o _ (by omega), foldedTurns_mirror hd h, ← zoneCount_eq_zonesOf o n hd]
  · rintro rfl
    exact (hcount (foldedTurns_zero d)).trans (zonesOf_zero o)
  · rintro k phi lat rfl hrow h0 hphi hnext
    have hlt := hphi.trans (transitions_below_87 hrow)
    rw [hcount (foldedTurns_of_le (hquarter hlt (by norm_num)))]
    exact zonesOf_band o hrow h0 hphi hnext
  · intro phi hrow hphi h
    rw [hcount (foldedTurns_of_le (by omega))]
    exact zonesOf_two o hrow hphi (h87 h)
  · intro h
    have hlat : foldedTurns n d = 1 / 8 := by
      rw [foldedTurns_of_le (by omega), div_eq_div_iff hd'.ne' (by norm_num), one_mul, mul_comm]
      exact_mod_cast h
    rw [hcount hlat]
    refine zonesOf_band o (phi := 0.12651740896278482) ?_ (by norm_num) (by norm_num) fun phi' hrow => ?_
    · norm_num [transitions, transitionsHigh]
    · norm_num [transitions, transitionsHigh, transitionsLow] at hrow
      rw [hrow]
      norm_num
  · intro h
    have hlat : foldedTurns n d = 29 / 120 := by
      rw [foldedTurns_of_le (by omega), div_eq_div_iff hd'.ne' (by norm_num), mul_comm]
      exact_mod_cast h
    exact (hcount hlat).trans (zonesOf_87 o)
  · intro h hle
    rw [hcount (foldedTurns_of_le hle), zonesOf_polar]
    rw [div_lt_div_iff₀ (by norm_num) hd', mul_comm (n.natAbs : ℚ)]
    exact_mod_cast h

/-- Settles O49: the cases of the merge, the range of a wrapped longitude, and the merge of four zeros. -/
theorem mergeAlwaysAnswersInBounds : Obligations.MergeAlwaysAnswersInBounds := by
  unfold Obligations.MergeAlwaysAnswersInBounds
  refine ⟨⟨fun s x0 y0 x1 y1 recent h => ?_, fun tie x0 x1 nl hlow hhigh => ?_⟩, fun s recent h => ?_⟩
  · obtain ⟨geo, hlat, hmerge⟩ | hmerge | hmerge := cprMerge_cases s.cfg x0 y0 x1 y1 (recentParity recent)
    · exact .inl ⟨geo, hlat, exec_cprMerge h recent hmerge⟩
    · exact .inr (.inl (exec_cprMerge h recent hmerge))
    · exact .inr (.inr (exec_cprMerge h recent hmerge))
  · obtain ⟨heven, heven'⟩ :=
      toT32_bounds tie (lonEven_halfTurn tie x0 x1 hlow) (lonEven_den_pos hlow) (lonEven_den_le tie x0 x1 hhigh)
    obtain ⟨hodd, hodd'⟩ :=
      toT32_bounds tie (lonOdd_halfTurn tie x0 x1 hlow) (lonOdd_den_pos hlow) (lonOdd_den_le tie x0 x1 hhigh)
    exact ⟨heven, heven', hodd, hodd'⟩
  · exact exec_cprMerge h recent (cprMerge_zero s.cfg _)

/-- Settles O48: each angle is the rational number of its formula, and the T32 words and zone indices are rounded from it. -/
theorem mergeIsExactRationalArithmetic : Obligations.MergeIsExactRationalArithmetic := by
  unfold Obligations.MergeIsExactRationalArithmetic
  intro s x0 y0 x1 y1 recent j lat0 lat1 h hj hlat0 hlat1
  have hindex := latIndex_eq hj
  have heven : lat0 = (latEven s.cfg.roundTie y0 y1 : ℚ) / (60 * cprScale : ℕ) := by
    rw [hlat0, zoneTurns_eq _ _ (by decide), latEven, hindex]
  have hodd : lat1 = (latOdd s.cfg.roundTie y0 y1 : ℚ) / (59 * cprScale : ℕ) := by
    rw [hlat1, zoneTurns_eq _ _ (by decide), latOdd, hindex]
  have hzones0 : zoneCount s.cfg (latEven s.cfg.roundTie y0 y1) (60 * cprScale) = zonesAt s.cfg lat0 := by
    rw [zoneCount_eq_zonesAt _ (by decide) (latEven_halfTurn _ y0 y1), heven]
  have hzones1 : zoneCount s.cfg (latOdd s.cfg.roundTie y0 y1) (59 * cprScale) = zonesAt s.cfg lat1 := by
    rw [zoneCount_eq_zonesAt _ (by decide) (latOdd_halfTurn _ y0 y1), hodd]
  refine ⟨fun hne => ?_, fun nl m lat lon latT lonT hnl0 hnl1 hm hrec0 hrec1 hlatT hlonT => ?_⟩
  · exact exec_cprMerge h recent (cprMerge_zones_differ (by rwa [hzones0, hzones1]) _)
  · have hnl : 1 ≤ nl := by rw [← hnl0, ← hzones0, zoneCount_eq_zonesOf _ _ (by decide)]; exact one_le_zonesOf _ _
    have hm' := lonIndex_eq hm
    obtain ⟨hlat, hlon⟩ : lat = ((selectedLat s.cfg.roundTie y0 y1 (recentParity recent)).1 : ℚ) /
          (selectedLat s.cfg.roundTie y0 y1 (recentParity recent)).2 ∧
        lon = ((selectedLon s.cfg.roundTie x0 x1 nl (recentParity recent)).1 : ℚ) /
          (selectedLon s.cfg.roundTie x0 x1 nl (recentParity recent)).2 := by
      obtain rfl | rfl := BitVec.eq_zero_or_eq_one recent
      · obtain ⟨rfl, rfl⟩ := hrec0 rfl
        exact ⟨heven, hm' ▸ (lonEven_turns hnl).symm⟩
      · obtain ⟨rfl, rfl⟩ := hrec1 rfl
        exact ⟨hodd, hm' ▸ (lonOdd_turns hnl).symm⟩
    have hmerge := cprMerge_zones_equal (hzones0.trans hnl0) (hzones1.trans hnl1) (recentParity recent)
      (toT32_eq (selectedLat_den_pos ..) hlat hlatT) (toT32_eq (selectedLon_den_pos hnl _) hlon hlonT)
    have habs := Int.natCast_natAbs latT
    refine ⟨fun hbig => ?_, fun hsmall => ?_⟩
    · rw [if_pos (by omega)] at hmerge
      exact exec_cprMerge h recent hmerge
    · rw [if_neg (by omega)] at hmerge
      exact exec_cprMerge h recent hmerge

end Sys2Proof.Proofs
end

section
/-! PROOFS. The field checks of a velocity message on binary64 values: 49_tracker.md R857, 10_state.md R145. The magnitude of a
pattern rises with its low 63 bits, and the sign bit decides the sign. -/

namespace Sys2Proof.Machine

/-! ## The magnitude of a pattern (IEEE 754) -/

/-- The value of the 63 bits below the sign. -/
def f64Magnitude (n : Nat) : ℚ :=
  if n / 2 ^ 52 = 0 then ((n % 2 ^ 52 : ℕ) : ℚ) * 2 ^ (-1074 : ℤ)
  else ((2 ^ 52 + n % 2 ^ 52 : ℕ) : ℚ) * 2 ^ (((n / 2 ^ 52 : ℕ) : ℤ) - 1075)

theorem f64Magnitude_zero : f64Magnitude 0 = 0 := by simp [f64Magnitude]

/-- One more is one unit in the last place more, also where the fraction carries into the exponent. -/
theorem f64Magnitude_lt_succ (n : Nat) : f64Magnitude n < f64Magnitude (n + 1) := by
  have hunit (k : ℤ) : (0 : ℚ) < 2 ^ k := zpow_pos two_pos k
  have hfield : n = n / 2 ^ 52 * 2 ^ 52 + n % 2 ^ 52 := (Nat.div_add_mod' n _).symm
  have hfraction : n % 2 ^ 52 < 2 ^ 52 := Nat.mod_lt _ (by decide)
  unfold f64Magnitude
  generalize n / 2 ^ 52 = e at *
  generalize n % 2 ^ 52 = m at *
  by_cases hcarry : m + 1 = 2 ^ 52
  · rw [show (n + 1) / 2 ^ 52 = e + 1 by omega, show (n + 1) % 2 ^ 52 = 0 by omega, if_neg (Nat.succ_ne_zero e)]
    split
    · next he =>
      rw [he]
      refine mul_lt_mul_of_pos_right ?_ (hunit _)
      exact_mod_cast (by omega : m < 2 ^ 52 + 0)
    · rw [show ((e + 1 : ℕ) : ℤ) - 1075 = 1 + ((e : ℤ) - 1075) by push_cast; ring, zpow_add₀ two_ne_zero, zpow_one, ← mul_assoc]
      refine mul_lt_mul_of_pos_right ?_ (hunit _)
      exact_mod_cast (by omega : 2 ^ 52 + m < (2 ^ 52 + 0) * 2)
  · rw [show (n + 1) / 2 ^ 52 = e by omega, show (n + 1) % 2 ^ 52 = m + 1 by omega]
    split
    · refine mul_lt_mul_of_pos_right ?_ (hunit _)
      exact_mod_cast Nat.lt_succ_self m
    · refine mul_lt_mul_of_pos_right ?_ (hunit _)
      exact_mod_cast Nat.lt_succ_self (2 ^ 52 + m)

theorem f64Magnitude_strictMono : StrictMono f64Magnitude := strictMono_nat_of_lt_succ f64Magnitude_lt_succ

theorem f64Magnitude_nonneg (n : Nat) : 0 ≤ f64Magnitude n :=
  f64Magnitude_zero ▸ f64Magnitude_strictMono.monotone (Nat.zero_le n)

theorem f64Magnitude_eq_zero_iff (n : Nat) : f64Magnitude n = 0 ↔ n = 0 := by
  rw [← f64Magnitude_zero]
  exact f64Magnitude_strictMono.injective.eq_iff

/-! ## The value and the checks of a pattern -/

section Pattern

variable {v : F64}

theorem f64Value_of_msb_false (h : v.msb = false) : f64Value v = f64Magnitude v.toNat := by
  have hlt : v.toNat < 2 ^ 63 := by
    have := BitVec.msb_eq_false_iff_two_mul_lt.mp h
    omega
  rw [f64Value, h, f64Magnitude, show v.toNat / 2 ^ 52 % 2 ^ 11 = v.toNat / 2 ^ 52 by omega, if_neg Bool.false_ne_true, one_mul]

theorem f64Value_of_msb_true (h : v.msb = true) : f64Value v = -f64Magnitude (v.toNat - 2 ^ 63) := by
  have hle : 2 ^ 63 ≤ v.toNat := by
    have := BitVec.msb_eq_true_iff_two_mul_ge.mp h
    omega
  have hlt := v.isLt
  rw [f64Value, h, f64Magnitude, show v.toNat / 2 ^ 52 % 2 ^ 11 = (v.toNat - 2 ^ 63) / 2 ^ 52 by omega,
    show v.toNat % 2 ^ 52 = (v.toNat - 2 ^ 63) % 2 ^ 52 by omega, if_pos rfl, neg_one_mul]

/-- The finite patterns lie below the infinity, sign aside. -/
theorem f64Finite_iff : f64Finite v ↔ v.toNat % 2 ^ 63 < 0x7FF * 2 ^ 52 := by
  have hlt := v.isLt
  unfold f64Finite
  omega

theorem f64IsNaN_of_finite (h : f64Finite v) : f64IsNaN v = false := f64IsNaN_eq_false (f64Finite_iff.mp h).le

/-- A negative pattern has a value of at least 0 only if it is −0.0. -/
theorem nonneg_iff_of_msb_true (h : v.msb = true) : 0 ≤ f64Value v ↔ v = 0x8000000000000000#64 := by
  have hle : 2 ^ 63 ≤ v.toNat := by
    have := BitVec.msb_eq_true_iff_two_mul_ge.mp h
    omega
  have hmag := f64Magnitude_nonneg (v.toNat - 2 ^ 63)
  rw [f64Value_of_msb_true h, Left.nonneg_neg_iff, hmag.ge_iff_eq', f64Magnitude_eq_zero_iff, ← BitVec.toNat_inj]
  change v.toNat - 2 ^ 63 = 0 ↔ v.toNat = 2 ^ 63
  omega

theorem f64NonNeg_iff (h : f64Finite v) : f64NonNeg v = true ↔ 0 ≤ f64Value v := by
  rw [f64NonNeg, f64IsNaN_of_finite h]
  cases hmsb : v.msb with
  | false => simp [f64Value_of_msb_false hmsb, f64Magnitude_nonneg]
  | true => simp [nonneg_iff_of_msb_true hmsb]

theorem f64NonNeg_of_nan (h : f64IsNaN v = true) : f64NonNeg v = false := by
  rw [f64NonNeg, h]
  rfl

theorem f64IsAngle_iff : f64IsAngle v = true ↔ f64Finite v ∧ 0 ≤ f64Value v ∧ f64Value v < f64Value f64TwoPi := by
  have hbound : f64Value f64TwoPi = f64Magnitude f64TwoPi.toNat := f64Value_of_msb_false rfl
  have htwoPi : f64TwoPi.toNat = 0x401921FB54442D18 := rfl
  rw [f64IsAngle, Bool.or_eq_true, beq_iff_eq, decide_eq_true_eq, f64Finite_iff, hbound]
  cases hmsb : v.msb with
  | false =>
    have hlt := BitVec.msb_eq_false_iff_two_mul_lt.mp hmsb
    have hne : v ≠ 0x8000000000000000#64 := by
      rintro rfl
      cases hmsb
    rw [f64Value_of_msb_false hmsb, f64Magnitude_strictMono.lt_iff_lt, and_iff_right (f64Magnitude_nonneg _), or_iff_right hne]
    omega
  | true =>
    have hle := BitVec.msb_eq_true_iff_two_mul_ge.mp hmsb
    rw [nonneg_iff_of_msb_true hmsb, or_iff_left (by omega)]
    constructor
    · rintro rfl
      refine ⟨by decide, rfl, ?_⟩
      rw [f64Value_of_msb_true hmsb, show (0x8000000000000000#64).toNat - 2 ^ 63 = 0 from rfl, f64Magnitude_zero, neg_zero,
        ← f64Magnitude_zero]
      exact f64Magnitude_strictMono (by decide)
    · exact fun h => h.2.1

end Pattern

end Sys2Proof.Machine

namespace Sys2Proof.Proofs

open Sys2Proof Sys2Proof.Machine

/-- Settles O52: finite patterns are ordered as their values, and the only negative pattern of value 0 is −0.0. -/
theorem fieldChecksMeanTheirInequalities : Obligations.FieldChecksMeanTheirInequalities := by
  unfold Obligations.FieldChecksMeanTheirInequalities
  exact fun v => ⟨f64NonNeg_iff, f64NonNeg_of_nan, f64IsAngle_iff⟩

end Sys2Proof.Proofs
end

section
/-! PROOFS. The aircraft tracker and the pipeline: 49_tracker.md R850 to R890. `TRK.UPDATE` has one law for a refused operand
and one for the entry that a checked message leaves; the pipeline step is that law after the demodulator's. -/

namespace Sys2Proof.Machine

/-! ## The checks of a message operand (R304, R857) -/

section Checks

variable {ts : Ts} {icao : Icao}

theorem tsNegative_eq_false (h : ts.toNat < 2 ^ 63) : tsNegative ts = false :=
  Bool.eq_false_iff.mpr (mt tsNegative_iff.mp (Nat.not_le.mpr h))

theorem checkMsg_ident (h : ts.toNat < 2 ^ 63) (category : BitVec 8) (callSign : List Byte) :
    checkMsg (.ident ts icao category callSign) =
      if 8 < callSign.length then .fault .badField 1#64
      else if callSign.all callSignChar then .done (.ident ts icao category callSign)
      else .fault .badField 2#64 := by
  rw [checkMsg, tsNegative_eq_false h]
  rfl

theorem checkMsg_position (h : ts.toNat < 2 ^ 63) (altitude : F64) (parity : BitVec 8) (x y : BitVec 17) :
    checkMsg (.position ts icao altitude parity x y) =
      if 1 < parity.toNat then .fault .badField 3#64
      else if f64IsNaN altitude then .fault .badField 4#64
      else .done (.position ⟨ts, icao, altitude, if parity = 0#8 then .even else .odd, x, y⟩) := by
  rw [checkMsg, tsNegative_eq_false h]
  rfl

theorem checkMsg_velocity (h : ts.toNat < 2 ^ 63) (speed track : F64) :
    checkMsg (.velocity ts icao speed track) =
      if !f64NonNeg speed then .fault .badField 5#64
      else if !f64IsAngle track then .fault .badField 6#64
      else .done (.velocity ts icao speed track) := by
  rw [checkMsg, tsNegative_eq_false h]
  rfl

end Checks

/-! ## How `TRK.UPDATE` ends (R850) -/

section Update

variable {s : State} {msg : MsgOperand} {m : Message}

theorem trkUpdate_faults (h : s.ready) {c : Cause} {info : BitVec 64} (hm : checkMsg msg = .fault c info) :
    faults s (.trkUpdate msg) c info := by
  rw [faults, exec, execTrkUpdate, guarded_ready h, hm]
  rfl

theorem exec_trkUpdate (h : s.ready) (hm : checkMsg msg = .done m) :
    exec (.trkUpdate msg) s = .next ((trackMessage s m).1.respond (trackMessage s m).2 .empty) := by
  rw [exec, execTrkUpdate, guarded_ready h, hm]
  rfl

/-- The events of a new and of a known address (R880, R881). -/
theorem updateEvent_eq (t : List (Icao × AircraftState)) (icao : Icao) (a : AircraftState) :
    updateEvent t icao a = if tableGet icao t = none then .add icao a else .update icao a := by
  unfold updateEvent
  cases tableGet icao t with
  | none => rfl
  | some b => rfl

/-- The entry that a message starts from (R851, R852). -/
theorem entryFor_eq {t : List (Icao × AircraftState)} {base : AircraftState}
    (hbase : base = AircraftState.fresh m.ts ∧ tableGet m.icao t = none ∨
      ∃ old, tableGet m.icao t = some old ∧ base = { old with lastSeenNs := m.ts }) : entryFor t m = base := by
  unfold entryFor
  obtain ⟨rfl, hnone⟩ | ⟨old, hold, rfl⟩ := hbase
  · rw [hnone]
  · rw [hold]

/-- What a checked message changes: the entry of its address, `T.lastNs`, and one event more (R850 to R852, R880). -/
theorem trackMessage_eq (s : State) (m : Message) :
    trackMessage s m =
      ({ s with
          table := tableSet m.icao (applyMessage s.cfg (entryFor s.table m) m).1 s.table
          lastNs := some m.ts
          ev := s.ev ++ [if tableGet m.icao s.table = none then .add m.icao (applyMessage s.cfg (entryFor s.table m) m).1
            else .update m.icao (applyMessage s.cfg (entryFor s.table m) m).1] },
        (applyMessage s.cfg (entryFor s.table m) m).2) := by
  rw [trackMessage, updateEvent_eq]
  rfl

theorem trkUpdate_records (h : s.ready) (hm : checkMsg msg = .done m) {a : AircraftState} {o : RespOutcome}
    (ha : applyMessage s.cfg (entryFor s.table m) m = (a, o)) :
    ∃ table, tableGet m.icao table = some a ∧ (∀ b, b ≠ m.icao → tableGet b table = tableGet b s.table) ∧
      exec (.trkUpdate msg) s = .next { s with
        table := table, lastNs := some m.ts
        ev := s.ev ++ [if tableGet m.icao s.table = none then .add m.icao a else .update m.icao a]
        resp := some (.normal o .empty) } := by
  refine ⟨tableSet m.icao a s.table, tableGet_tableSet_same .., fun b hb => tableGet_tableSet_other hb .., ?_⟩
  rw [exec_trkUpdate h hm, trackMessage_eq, ha]
  rfl

end Update

/-! ## Position messages (R855, R856) -/

section Position

variable {o : Config.Options} {a : AircraftState} {p other : PositionMsg}

theorem positionUpdate_unpaired (hslot : a.slot p.parity.other = none) : positionUpdate o a p = (a.store p, .ok) := by
  rw [positionUpdate, hslot]

theorem positionUpdate_indeterminate (hslot : a.slot p.parity.other = some other) {reason : RespOutcome}
    (hmerge : mergePair o p other = .indeterminate reason) : positionUpdate o a p = (a.store p, reason) := by
  simp only [positionUpdate, hslot, hmerge]

theorem positionUpdate_late (hslot : a.slot p.parity.other = some other) {geo : GeoPos}
    (hmerge : mergePair o p other = .position geo) (hgap : 10000000000 < tsGap p.ts other.ts) :
    positionUpdate o a p = (a.store p, .timeout) := by
  simp only [positionUpdate, hslot, hmerge]
  exact if_pos hgap

theorem positionUpdate_timely (hslot : a.slot p.parity.other = some other) {geo : GeoPos}
    (hmerge : mergePair o p other = .position geo) (hgap : tsGap p.ts other.ts ≤ 10000000000) :
    positionUpdate o a p = ({ a.store p with position := some geo }, .ok) := by
  simp only [positionUpdate, hslot, hmerge]
  exact if_neg (Nat.not_lt.mpr hgap)

/-- The gap of two timestamps is their distance over ℤ. -/
theorem tsGap_cast (s t : Ts) : (tsGap s t : ℤ) = |(s.toNat : ℤ) - t.toNat| := Int.natCast_natAbs _

end Position

/-! ### The pair of R858 -/

theorem selectedLat_p3 (tie : Config.RoundTie) (recent : Parity) :
    (selectedLat tie 1000#17 1000#17 recent).1 = 1000 ∧
      (toT32 tie (selectedLat tie 1000#17 1000#17 recent).1 (selectedLat tie 1000#17 1000#17 recent).2).natAbs ≤ 2 ^ 30 := by
  cases tie <;> cases recent <;> decide

/-- Equal local coordinates near the equator merge, whatever the options. -/
theorem cprMerge_p3 (o : Config.Options) (recent : Parity) :
    ∃ geo, cprMerge o 1000#17 1000#17 1000#17 1000#17 recent = .position geo := by
  have heven : latEven o.roundTie 1000#17 1000#17 = 1000 := (selectedLat_p3 _ .even).1
  have hodd : latOdd o.roundTie 1000#17 1000#17 = 1000 := (selectedLat_p3 _ .odd).1
  have hzones0 : zoneCount o 1000 (60 * cprScale) = 59 := rfl
  have hzones1 : zoneCount o 1000 (59 * cprScale) = 59 := rfl
  have hmerge := cprMerge_zones_equal (x0 := 1000#17) (x1 := 1000#17) (heven ▸ hzones0) (hodd ▸ hzones1) recent rfl rfl
  rw [if_neg (Nat.not_lt.mpr (selectedLat_p3 _ recent).2)] at hmerge
  exact ⟨_, hmerge⟩

theorem mergePair_p3 (o : Config.Options) {p other : PositionMsg} (hx : p.x = 1000#17) (hy : p.y = 1000#17)
    (hx' : other.x = 1000#17) (hy' : other.y = 1000#17) : ∃ geo, mergePair o p other = .position geo := by
  rw [mergePair, hx, hy, hx', hy']
  cases p.parity
  · exact cprMerge_p3 o .even
  · exact cprMerge_p3 o .odd

/-! ### Two messages of one aircraft (R856, R858) -/

section Pair

variable {a : AircraftState} {p : PositionMsg}

theorem store_slot (a : AircraftState) (p : PositionMsg) : (a.store p).slot p.parity = some p := by
  unfold AircraftState.store AircraftState.slot
  cases p.parity
  · rfl
  · rfl

theorem store_position (a : AircraftState) (p : PositionMsg) : (a.store p).position = a.position := by
  unfold AircraftState.store
  cases p.parity
  · rfl
  · rfl

theorem slot_seen (a : AircraftState) (ts : Ts) (par : Parity) :
    ({ a with lastSeenNs := ts } : AircraftState).slot par = a.slot par := by
  cases par
  · rfl
  · rfl

theorem slot_fresh (ts : Ts) (par : Parity) : (AircraftState.fresh ts).slot par = none := by
  cases par
  · rfl
  · rfl

/-- What a position message leaves for a later command. -/
theorem trkUpdate_position {s t : State} (h : s.ready) (hp : messageOk (.position p)) {base : AircraftState}
    (hbase : entryFor s.table (.position p) = base) {o : RespOutcome} (hr : positionUpdate s.cfg base p = (a, o))
    (ht : exec (.trkUpdate (Message.position p).toOperand) s = .next t) :
    t.ready ∧ t.cfg = s.cfg ∧ tableGet p.icao t.table = some a ∧ t.resp = some (.normal o .empty) := by
  obtain ⟨table, hentry, -, hnext⟩ := trkUpdate_records h (checkMsg_toOperand hp)
    ((congrArg (applyMessage s.cfg · (.position p)) hbase).trans hr)
  cases hnext.symm.trans ht
  exact ⟨h, rfl, hentry, rfl⟩

/-- A new aircraft's first position message and one of the other parity behind it, which merge. -/
theorem trkUpdate_pair {s t u : State} {first second : PositionMsg} {geo : GeoPos} (h : s.ready)
    (hnone : tableGet first.icao s.table = none) (hfirst : messageOk (.position first)) (hsecond : messageOk (.position second))
    (hicao : second.icao = first.icao) (hparity : second.parity.other = first.parity)
    (hmerge : mergePair s.cfg second first = .position geo)
    (ht : exec (.trkUpdate (Message.position first).toOperand) s = .next t)
    (hu : exec (.trkUpdate (Message.position second).toOperand) t = .next u) :
    ∃ a, tableGet first.icao u.table = some a ∧
      (tsGap second.ts first.ts ≤ 10000000000 → a.position.isSome = true ∧ u.resp = some (.normal .ok .empty)) ∧
      (10000000000 < tsGap second.ts first.ts → a.position = none ∧ u.resp = some (.normal .timeout .empty)) := by
  obtain ⟨hready, hcfg, hentry, -⟩ := trkUpdate_position h hfirst (entryFor_eq (.inl ⟨rfl, hnone⟩))
    (positionUpdate_unpaired (slot_fresh ..)) ht
  rw [← hicao] at hentry ⊢
  have hseen : entryFor t.table (.position second) =
      { (AircraftState.fresh first.ts).store first with lastSeenNs := second.ts } := entryFor_eq (.inr ⟨_, hentry, rfl⟩)
  have hslot : ({ (AircraftState.fresh first.ts).store first with lastSeenNs := second.ts } : AircraftState).slot
      second.parity.other = some first := by rw [slot_seen, hparity, store_slot]
  rw [← hcfg] at hmerge
  rcases Nat.lt_or_ge 10000000000 (tsGap second.ts first.ts) with hlate | htimely
  · obtain ⟨-, -, hentry', hresp⟩ := trkUpdate_position hready hsecond hseen (positionUpdate_late hslot hmerge hlate) hu
    exact ⟨_, hentry', fun hle => absurd hlate (Nat.not_lt.mpr hle),
      fun _ => ⟨(store_position _ second).trans (store_position (AircraftState.fresh first.ts) first), hresp⟩⟩
  · obtain ⟨-, -, hentry', hresp⟩ := trkUpdate_position hready hsecond hseen (positionUpdate_timely hslot hmerge htimely) hu
    exact ⟨_, hentry', fun _ => ⟨rfl, hresp⟩, fun hlt => absurd htimely (Nat.not_le.mpr hlt)⟩

end Pair

/-! ## `TRK.PURGE` (R860 to R862) -/

section Purge

variable {s : State} {now : Ts} {t : List (Icao × AircraftState)}

theorem isStale_eq (now : Ts) (a : AircraftState) :
    isStale now a = decide (60000000000 < (now.toNat : ℤ) - a.lastSeenNs.toNat) := rfl

theorem not_isStale_eq (now : Ts) (a : AircraftState) :
    (!isStale now a) = decide ((now.toNat : ℤ) - a.lastSeenNs.toNat ≤ 60000000000) := by
  rw [isStale_eq, ← decide_not, decide_eq_decide, not_lt]

/-- The state that the purge leaves, without its response. -/
def State.purged (s : State) (now : Ts) : State :=
  { s with
    table := s.table.filter fun e => !isStale now e.2
    ev := s.ev ++ ((s.table.filter fun e => isStale now e.2).map Prod.fst).map Event.remove }

theorem trkPurge_faults (h : s.ready) (hnow : 2 ^ 63 ≤ now.toNat) : faults s (.trkPurge now) .tsNegative now := by
  rw [faults, exec, execTrkPurge, guarded_ready h, if_pos (tsNegative_iff.mpr hnow)]
  rfl

theorem exec_trkPurge (h : s.ready) (hnow : now.toNat < 2 ^ 63) :
    exec (.trkPurge now) s = .next ((s.purged now).respond .ok
      (.bits 32 (BitVec.ofNat 32 ((s.table.filter fun e => isStale now e.2).map Prod.fst).length))) := by
  rw [exec, execTrkPurge, guarded_ready h, tsNegative_eq_false hnow, State.purged, List.map_map, List.length_map]
  rfl

/-- The addresses that a filter of a table in canonical form keeps. -/
theorem mem_map_filter_iff (ht : tableWf t) (keep : AircraftState → Bool) (a : Icao) :
    a ∈ (t.filter fun e => keep e.2).map Prod.fst ↔ ∃ e, tableGet a t = some e ∧ keep e = true := by
  simp only [List.mem_map, List.mem_filter, tableGet_eq_some_iff ht]
  constructor
  · rintro ⟨⟨b, e⟩, ⟨hmem, hkeep⟩, rfl⟩
    exact ⟨e, hmem, hkeep⟩
  · rintro ⟨e, hmem, hkeep⟩
    exact ⟨(a, e), ⟨hmem, hkeep⟩, rfl⟩

theorem tableGet_filter_not (ht : tableWf t) (drop : AircraftState → Bool) (a : Icao) :
    tableGet a (t.filter fun e => !drop e.2) =
      if a ∈ (t.filter fun e => drop e.2).map Prod.fst then none else tableGet a t := by
  ext v
  rw [tableGet_eq_some_iff (tableWf_filter ht _), List.mem_filter, ← tableGet_eq_some_iff ht]
  split
  · next hgone =>
    obtain ⟨e, he, hdrop⟩ := (mem_map_filter_iff ht drop a).mp hgone
    rw [he, Option.some.injEq]
    constructor
    · rintro ⟨rfl, hv⟩
      simp [hdrop] at hv
    · exact nofun
  · next hkept =>
    refine and_iff_left_of_imp fun hv => ?_
    simpa using fun hdrop => hkept ((mem_map_filter_iff ht drop a).mpr ⟨v, hv, hdrop⟩)

end Purge

/-! ## The pipeline step (R890) -/

section Pipe

variable {s t : State} {f : Frame} {m : Message}

theorem exec_pipeStep (h : s.ready) : exec .pipeStep s = .next (s.settle .pipeStep (pipeRun (demRun s))) := guarded_ready h _

/-- `DEM.NEXT` of a step writes nothing that the decoder or the tracker reads. -/
theorem demRun_keeps {a : State × Option Frame} (h : demRun s = .done a) :
    a.1.cfg = s.cfg ∧ a.1.table = s.table ∧ a.1.ev = s.ev ∧ a.1.faulted = s.faulted ∧ a.1.cause = s.cause := by
  obtain ⟨u, g⟩ := a
  cases (h ▸ demRun_writes s).of_done
  exact ⟨rfl, rfl, rfl, rfl, rfl⟩

/-- A frame that the demodulator returns stands in the frame register (R611). -/
theorem demRun_frame (h : demRun s = .done (t, some f)) : t.frame = some f := by
  cases hstate : s.dstate with
  | done => cases (demRun_of_done hstate).symm.trans h
  | scanning =>
    obtain ⟨p, bytes, taken, hrun, rfl⟩ := demRun_eq_frame hstate h
    cases (demRun_of_scanRun_frame hstate hrun).symm.trans h
    rfl

theorem pipeStep_discard (h : s.ready) (hrun : demRun s = .done (t, some f)) {reason : RespOutcome}
    (hm : decodeFrame s.cfg f = .discard reason) : exec .pipeStep s = .next (t.respond reason (.frame f)) := by
  rw [← (demRun_keeps hrun).1] at hm
  rw [exec_pipeStep h, hrun, pipeRun, hm]
  rfl

theorem pipeStep_message (h : s.ready) (hrun : demRun s = .done (t, some f)) (hm : decodeFrame s.cfg f = .message m) :
    exec .pipeStep s = .next ((trackMessage t m).1.respond (trackMessage t m).2 (.message m)) := by
  have hcheck := checkMsg_of_demRun hrun hm
  rw [← (demRun_keeps hrun).1] at hm
  rw [exec_pipeStep h, hrun, pipeRun, hm]
  simp only [hcheck]
  rfl

theorem pipeStep_end (h : s.ready) (hrun : demRun s = .done (t, none)) : exec .pipeStep s = .next (t.respond .fin .empty) := by
  rw [exec_pipeStep h, hrun]
  rfl

theorem pipeStep_fault (h : s.ready) {c : Cause} {info : BitVec 64} (hrun : demRun s = .fault c info) :
    exec .pipeStep s = .next (s.raiseFault c info) := by
  rw [exec_pipeStep h, hrun]
  rfl

theorem pipeStep_wait (h : s.ready) (hrun : demRun s = .wait) : exec .pipeStep s = .next (s.hold .pipeStep) := by
  rw [exec_pipeStep h, hrun]
  rfl

end Pipe

/-! ## Events (R881) -/

section Events

variable {s t : State}

/-! A response that is not a normal one. -/

theorem ne_normal_of_refused (h : t.resp = some .refused) (o : RespOutcome) (v : Value) : t.resp ≠ some (.normal o v) := by
  rw [h]
  exact nofun

theorem ne_normal_of_fault {c : Cause} {info : BitVec 64} (h : t.resp = some (.fault c info)) (o : RespOutcome) (v : Value) :
    t.resp ≠ some (.normal o v) := by
  rw [h]
  exact nofun

theorem ne_normal_of_none (h : t.resp = none) (o : RespOutcome) (v : Value) : t.resp ≠ some (.normal o v) := by
  rw [h]
  exact nofun

/-- `t` has one event more than `s`, that of the entry `m` is about. -/
def emitsUpdate (s : State) (m : Message) (t : State) : Prop :=
  ∃ a, tableGet m.icao t.table = some a ∧
    t.ev = s.ev ++ [if tableGet m.icao s.table = none then .add m.icao a else .update m.icao a]

theorem trackMessage_emits (s : State) (m : Message) : emitsUpdate s m (trackMessage s m).1 := by
  rw [trackMessage_eq]
  exact ⟨_, tableGet_tableSet_same .., rfl⟩

/-- A successful `TRK.UPDATE` emits the event of its message, and any other end of it none. -/
theorem trkUpdate_events {msg : MsgOperand} (h : exec (.trkUpdate msg) s = .next t) :
    (∃ o v m, t.resp = some (.normal o v) ∧ checkMsg msg = .done m ∧ emitsUpdate s m t) ∨
      ((∀ o v, t.resp ≠ some (.normal o v)) ∧ t.ev = s.ev) := by
  obtain ⟨-, -, rfl⟩ | ⟨hready, -⟩ := guarded_cases h
  · exact .inr ⟨ne_normal_of_refused rfl, rfl⟩
  cases hm : checkMsg msg with
  | done m =>
    cases (exec_trkUpdate hready hm).symm.trans h
    exact .inl ⟨_, _, m, rfl, rfl, trackMessage_emits s m⟩
  | fault c info =>
    cases (trkUpdate_faults hready hm).symm.trans h
    exact .inr ⟨ne_normal_of_fault rfl, rfl⟩
  | wait => exact (hm ▸ checkMsg_ends msg).of_wait.elim

/-- `TRK.PURGE` ends with a purge or changes no event. -/
theorem trkPurge_events {now : Ts} (h : exec (.trkPurge now) s = .next t) :
    (∃ v, t = (s.purged now).respond .ok v) ∨ ((∀ o v, t.resp ≠ some (.normal o v)) ∧ t.ev = s.ev) := by
  obtain ⟨-, -, rfl⟩ | ⟨hready, -⟩ := guarded_cases h
  · exact .inr ⟨ne_normal_of_refused rfl, rfl⟩
  rcases Nat.lt_or_ge now.toNat (2 ^ 63) with hnow | hnow
  · cases (exec_trkPurge hready hnow).symm.trans h
    exact .inl ⟨_, rfl⟩
  · cases (trkPurge_faults hready hnow).symm.trans h
    exact .inr ⟨ne_normal_of_fault rfl, rfl⟩

/-- `PIPE.STEP` emits the event of the message it returns, and none if it returns no message. -/
theorem pipeStep_events (h : exec .pipeStep s = .next t) :
    (∃ o m, t.resp = some (.normal o (.message m)) ∧ emitsUpdate s m t) ∨
      ((∀ o m, t.resp ≠ some (.normal o (.message m))) ∧ t.ev = s.ev) := by
  obtain ⟨-, -, rfl⟩ | ⟨hready, -⟩ := guarded_cases h
  · exact .inr ⟨fun o m => ne_normal_of_refused rfl o _, rfl⟩
  cases hrun : demRun s with
  | done a =>
    obtain ⟨-, htable, hev, -, -⟩ := demRun_keeps hrun
    obtain ⟨u, _ | f⟩ := a
    · cases (pipeStep_end hready hrun).symm.trans h
      exact .inr ⟨fun _ _ heq => (by cases heq), hev⟩
    · cases hm : decodeFrame s.cfg f with
      | discard reason =>
        cases (pipeStep_discard hready hrun hm).symm.trans h
        exact .inr ⟨fun _ _ heq => (by cases heq), hev⟩
      | message m =>
        cases (pipeStep_message hready hrun hm).symm.trans h
        obtain ⟨a, hentry, hevent⟩ := trackMessage_emits u m
        exact .inl ⟨_, m, rfl, a, hentry, by rw [← hev, ← htable]; exact hevent⟩
  | fault c info =>
    cases (pipeStep_fault hready hrun).symm.trans h
    exact .inr ⟨fun o m => ne_normal_of_fault rfl o _, rfl⟩
  | wait =>
    cases (pipeStep_wait hready hrun).symm.trans h
    exact .inr ⟨fun o m => ne_normal_of_none rfl o _, rfl⟩

theorem evPop_events (h : exec .evPop s = .next t) : t.ev = s.ev ∨ t.ev = s.ev.drop 1 := by
  obtain ⟨-, -, rfl⟩ | ⟨-, rfl⟩ := guarded_cases h
  · exact .inl rfl
  · exact .inr List.drop_one.symm

end Events

end Sys2Proof.Machine

namespace Sys2Proof.Proofs

open Sys2Proof Sys2Proof.Machine

/-- Settles O51: the checks stand one behind the other, and the command faults with the first that fails. -/
theorem updateChecksItsOperand : Obligations.UpdateChecksItsOperand := by
  unfold Obligations.UpdateChecksItsOperand
  intro s ts icao h
  refine ⟨fun tag => trkUpdate_faults h rfl, fun hts => ⟨?_, ?_, ?_⟩, fun hts => ⟨?_, ?_, ?_, ?_, ?_, ?_⟩⟩
  · exact fun category callSign => trkUpdate_faults h (if_pos (tsNegative_iff.mpr hts))
  · exact fun altitude parity x y => trkUpdate_faults h (if_pos (tsNegative_iff.mpr hts))
  · exact fun speed track => trkUpdate_faults h (if_pos (tsNegative_iff.mpr hts))
  · intro category callSign hlength
    exact trkUpdate_faults h (by rw [checkMsg_ident hts, if_pos hlength])
  · intro category callSign hlength ⟨c, hmem, hc⟩
    have hall : ¬callSign.all callSignChar = true := fun hall => by simp [List.all_eq_true.mp hall c hmem] at hc
    exact trkUpdate_faults h (by rw [checkMsg_ident hts, if_neg (Nat.not_lt.mpr hlength), if_neg hall])
  · intro altitude parity x y hparity
    exact trkUpdate_faults h (by rw [checkMsg_position hts, if_pos hparity])
  · intro altitude parity x y hparity hnan
    exact trkUpdate_faults h (by rw [checkMsg_position hts, if_neg (Nat.not_lt.mpr hparity), if_pos hnan])
  · intro speed track hspeed
    exact trkUpdate_faults h (by rw [checkMsg_velocity hts, hspeed]; rfl)
  · intro speed track hspeed htrack
    exact trkUpdate_faults h (by rw [checkMsg_velocity hts, hspeed, htrack]; rfl)

/-- Settles O53: the two messages write their fields into the entry that R851 and R852 give. -/
theorem updateRecordsIdentAndVelocity : Obligations.UpdateRecordsIdentAndVelocity := by
  unfold Obligations.UpdateRecordsIdentAndVelocity
  rintro s ts icao base h hts hbase i a
    (⟨category, callSign, hlength, hchars, rfl, rfl⟩ | ⟨speed, track, hspeed, htrack, rfl, rfl⟩)
  · refine trkUpdate_records (m := .ident ts icao category callSign) h ?_ ?_
    · rw [checkMsg_ident hts, if_neg (Nat.not_lt.mpr hlength), if_pos hchars]
    · rw [entryFor_eq (m := .ident ts icao category callSign) hbase]
      rfl
  · refine trkUpdate_records (m := .velocity ts icao speed track) h ?_ ?_
    · rw [checkMsg_velocity hts, hspeed, htrack]
      rfl
    · rw [entryFor_eq (m := .velocity ts icao speed track) hbase]
      rfl

/-- Settles O54: the other slot, the merge and the gap of the timestamps decide among the four ends of the position update. -/
theorem updateRecordsAPosition : Obligations.UpdateRecordsAPosition := by
  unfold Obligations.UpdateRecordsAPosition
  intro s p base stored parity h hts hnan hparity hbase hstored a outcome hcase
  have hcheck : checkMsg (.position p.ts p.icao p.altitudeM parity p.x p.y) = .done (.position p) := by
    obtain ⟨ts, icao, altitudeM, par, x, y⟩ := p
    obtain ⟨rfl, rfl⟩ | ⟨rfl, rfl⟩ := hparity
    · exact checkMsg_toOperand (m := .position _) ⟨hts, hnan⟩
    · exact checkMsg_toOperand (m := .position _) ⟨hts, hnan⟩
  have hstore : stored = base.store p := hstored
  have hslot : (match p.parity with | .even => base.slotOdd | .odd => base.slotEven) = base.slot p.parity.other := by
    cases p.parity
    · rfl
    · rfl
  refine trkUpdate_records (m := .position p) h hcheck ?_
  rw [entryFor_eq (m := .position p) hbase, applyMessage]
  obtain ⟨hnone, rfl, rfl⟩ | ⟨other, merged, hsome, hmerged, hend⟩ := hcase
  · rw [positionUpdate_unpaired (hslot ▸ hnone), hstore]
  · have hother : base.slot p.parity.other = some other := hslot ▸ hsome
    have hmerge : mergePair s.cfg p other = merged := hmerged.symm
    rw [hstore] at hend
    obtain ⟨rfl, rfl⟩ | ⟨geo, rfl, hgap, rfl, rfl⟩ | ⟨geo, rfl, hgap, rfl, rfl⟩ := hend
    · exact positionUpdate_indeterminate hother hmerge
    · exact positionUpdate_late hother hmerge (by have := tsGap_cast p.ts other.ts; omega)
    · exact positionUpdate_timely hother hmerge (by have := tsGap_cast p.ts other.ts; omega)

/-- Settles O55: the two messages merge, and their gap is on one side or the other of R856's 10 s. -/
theorem pairsWithinTenSecondsMerge : Obligations.PairsWithinTenSecondsMerge := by
  unfold Obligations.PairsWithinTenSecondsMerge
  intro s t u icao ts first gap alt h hnone halt hts hfirst hgap ht hu
  have hlater : (ts + BitVec.ofNat 64 gap).toNat = ts.toNat + gap := by
    rw [BitVec.toNat_add, BitVec.toNat_ofNat]
    omega
  have hdistance : tsGap (ts + BitVec.ofNat 64 gap) ts = gap := by
    rw [tsGap, hlater]
    omega
  obtain ⟨par, hpar⟩ : ∃ par : Parity,
      ∀ ts : Ts, .position ts icao alt (BitVec.ofNat 8 first) 1000#17 1000#17 =
          (Message.position ⟨ts, icao, alt, par, 1000#17, 1000#17⟩).toOperand ∧
        .position ts icao alt (BitVec.ofNat 8 (1 - first)) 1000#17 1000#17 =
          (Message.position ⟨ts, icao, alt, par.other, 1000#17, 1000#17⟩).toOperand := by
    interval_cases first
    · exact ⟨.even, fun _ => ⟨rfl, rfl⟩⟩
    · exact ⟨.odd, fun _ => ⟨rfl, rfl⟩⟩
  rw [(hpar ts).1] at ht
  rw [(hpar _).2] at hu
  have hfirstOk : messageOk (.position ⟨ts, icao, alt, par, 1000#17, 1000#17⟩) :=
    ⟨Nat.lt_of_le_of_lt (Nat.le_add_right ..) hts, halt⟩
  have hsecondOk : messageOk (.position ⟨ts + BitVec.ofNat 64 gap, icao, alt, par.other, 1000#17, 1000#17⟩) := by
    refine ⟨?_, halt⟩
    dsimp only
    omega
  obtain ⟨geo, hmerge⟩ := mergePair_p3 s.cfg (p := ⟨ts + BitVec.ofNat 64 gap, icao, alt, par.other, 1000#17, 1000#17⟩)
    (other := ⟨ts, icao, alt, par, 1000#17, 1000#17⟩) rfl rfl rfl rfl
  have hother : par.other.other = par := by cases par <;> rfl
  obtain ⟨a, hentry, htimely, hlate⟩ := trkUpdate_pair (first := ⟨ts, icao, alt, par, 1000#17, 1000#17⟩) h hnone
    hfirstOk hsecondOk rfl hother hmerge ht hu
  rw [hdistance] at htimely hlate
  exact ⟨a, hentry, fun hgap => htimely (by omega), fun hgap => hlate (by omega)⟩

/-- Settles O56: what is filtered out of a table in canonical form are the addresses that read as stale. -/
theorem purgeRemovesStaleEntries : Obligations.PurgeRemovesStaleEntries := by
  unfold Obligations.PurgeRemovesStaleEntries
  intro s now h htable
  refine ⟨trkPurge_faults h, fun hnow => ?_⟩
  refine ⟨s.table.filter fun e => !isStale now e.2, (s.table.filter fun e => isStale now e.2).map Prod.fst,
    ?_, fun a => ?_, ?_, ?_⟩
  · exact List.pairwise_map.mpr (tableWf_filter htable _)
  · rw [mem_map_filter_iff htable (isStale now)]
    simp only [isStale_eq, decide_eq_true_eq]
  · exact tableGet_filter_not htable (isStale now)
  · exact exec_trkPurge h hnow

/-- Settles O57: in a table in canonical form an entry is what its address reads. -/
theorem trackerAndEventReads : Obligations.TrackerAndEventReads := by
  unfold Obligations.TrackerAndEventReads
  refine ⟨fun s icao h htable => ⟨fun a hmem => ?_, fun hnone => ?_, guarded_ready h _⟩,
    fun s h => ⟨fun hev => ?_, fun e rest hev => ?_⟩⟩
  · rw [answers, exec, execTrkRead, (tableGet_eq_some_iff htable icao a).mpr hmem]
    exact guarded_ready h _
  · rw [answers, exec, execTrkRead, (tableGet_eq_none_iff s.table icao).mpr hnone]
    exact guarded_ready h _
  · have hsame : ({ s with ev := s.ev.tail } : State) = s := by rw [hev, List.tail_nil, ← hev]
    rw [answers, exec, execEvPop, guarded_ready h, hsame, List.head?_eq_none_iff.mpr hev]
    rfl
  · rw [exec, execEvPop, guarded_ready h, hev]
    rfl

/-- Settles O58: the three commands that emit, one by one; the others write no event but for `EV.POP` and `BLK.RESET`. -/
theorem eventsAreEmittedByTheTrackerOnly : Obligations.EventsAreEmittedByTheTrackerOnly := by
  unfold Obligations.EventsAreEmittedByTheTrackerOnly
  intro i s t h
  refine ⟨?_, ?_, ?_, ?_, ?_, ?_⟩
  · rintro msg rfl
    obtain ⟨o, v, m, hresp, hm, a, hentry, hevent⟩ | ⟨hresp, hev⟩ := trkUpdate_events h
    · exact ⟨fun _ _ _ => ⟨m, a, hm, hentry, hevent⟩, fun hno => absurd hresp (hno o v)⟩
    · exact ⟨fun o v hnormal => absurd hnormal (hresp o v), fun _ => hev⟩
  · rintro now rfl
    obtain ⟨v, rfl⟩ | ⟨hresp, hev⟩ := trkPurge_events h
    · refine ⟨fun _ _ _ => ⟨?_, ?_⟩, fun hno => absurd rfl (hno .ok v)⟩
      · rw [respond_ev, State.purged, List.map_map]
        rfl
      · simp only [respond_table, State.purged, not_isStale_eq]
    · exact ⟨fun o v hnormal => absurd hnormal (hresp o v), fun _ => hev⟩
  · rintro rfl
    obtain ⟨o, m, hresp, a, hentry, hevent⟩ | ⟨hresp, hev⟩ := pipeStep_events h
    · refine ⟨fun o' m' hresp' => ?_, fun hno => absurd hresp (hno o m)⟩
      cases hresp.symm.trans hresp'
      exact ⟨a, hentry, hevent⟩
    · exact ⟨fun o m hnormal => absurd hnormal (hresp o m), fun _ => hev⟩
  · intro hupdate hpurge hpipe hpop hreset
    refine (exec_keeps hreset h).ev ?_ hpop
    cases i with
    | trkUpdate msg => exact absurd rfl (hupdate msg)
    | trkPurge now => exact absurd rfl (hpurge now)
    | pipeStep => exact absurd rfl hpipe
    | blkReset => exact absurd rfl hreset
    | _ => rfl
  · rintro rfl
    exact evPop_events h
  · rintro rfl
    obtain ⟨-, rfl⟩ := unguarded_cases (exec_blkReset s ▸ h)
    rfl

/-- Settles O59: each end of the demodulator's run is one of the step's, and the message of a found frame passes the
tracker's checks. -/
theorem pipeStepRunsTheThreeStages : Obligations.PipeStepRunsTheThreeStages := by
  unfold Obligations.PipeStepRunsTheThreeStages
  refine ⟨fun s t f h hresp => ?_, fun s bytes h hframe hts => ?_, fun s t h ht => ?_⟩
  · obtain ⟨-, -, rfl⟩ | ⟨hready, -⟩ := guarded_cases h
    · exact absurd hresp (ne_normal_of_refused rfl _ _)
    obtain ⟨u, hrun⟩ := demRun_of_frame h hresp
    cases (demNext_of_frame hready hrun).symm.trans h
    refine ⟨(respond_frame ..).trans (demRun_frame hrun), fun reason hm => pipeStep_discard hready hrun hm, fun m hm => ?_⟩
    obtain ⟨-, -, -, hfaulted, hcause⟩ := demRun_keeps hrun
    have hupdate := exec_trkUpdate (s := u.respond .ok (.frame f)) ⟨hfaulted.trans hready.1, hcause ▸ hready.2⟩
      (checkMsg_of_demRun hrun hm)
    exact ⟨_, _, hupdate, rfl, pipeStep_message hready hrun hm⟩
  · have hrun := demRun_of_found hframe.clean.scanning hframe.clean.full (examineRun_of_frameAt hframe)
    replace hrun := hrun.trans (if_neg (Nat.not_le.mpr hts))
    have hpos : (foundState s bytes).wpos.toNat = s.wpos.toNat + 1200 := by
      change (BitVec.ofNat 64 (s.wpos.toNat + 1200)).toNat = _
      rw [BitVec.toNat_ofNat]
      omega
    cases hm : decodeFrame s.cfg (foundFrame s bytes) with
    | discard reason => exact ⟨_, _, _, pipeStep_discard h hrun hm, rfl, rfl, hpos⟩
    | message m => exact ⟨_, _, _, pipeStep_message h hrun hm, rfl, rfl, hpos⟩
  · cases hrun : demRun s with
    | done a =>
      obtain ⟨u, _ | f⟩ := a
      · cases (demNext_of_end h hrun).symm.trans ht
        exact ⟨fun _ => pipeStep_end h hrun, nofun, nofun⟩
      · cases (demNext_of_frame h hrun).symm.trans ht
        exact ⟨nofun, nofun, nofun⟩
    | fault c info =>
      cases ((demNext_faults_iff h).mpr hrun).symm.trans ht
      exact ⟨nofun, fun _ _ _ => pipeStep_fault h hrun, nofun⟩
    | wait =>
      cases ((demNext_waits_iff h).mpr hrun).symm.trans ht
      exact ⟨nofun, nofun, fun _ => pipeStep_wait h hrun⟩

end Sys2Proof.Proofs
end
